-- ==== Sys2Proof/Word.lean ====
section
/-! DEFINITION. The word types of the core (spec/00_scope.md R7, R9): XLEN = 32, bytes of 8 bits, and the
5-bit fields that name one of 32 registers or one of 32 reorder-buffer slots. -/

namespace Sys2Proof

/-- A register value, an address, the pc, an instruction word: 32 bits (R7 `XLEN`, `ILEN`; R9). -/
abbrev Word := BitVec 32

/-- The contents of one memory location (R26). -/
abbrev Byte := BitVec 8

/-- The index of a general register x0 .. x31, the 5-bit `rd`, `rs1`, `rs2` fields (R20, R91). -/
abbrev Reg := BitVec 5

/-- The index of a reorder-buffer slot 0 .. 31, which is also the name a waiting operand holds (R30, R311).
Its addition wraps modulo 32, as the ring's cursors do. -/
abbrev Slot := BitVec 5

end Sys2Proof
end

