-- ==== Sys2Proof/Config.lean ====
section
/-! DEFINITION. The implementation parameters of spec/00_scope.md R7 whose value the source leaves open. The spec
asks that a model take each "as an argument with the stated default": they are the fields of `Config`, the machine's
state carries one `Config` that no step changes, and `Config.default` gives the spec's defaults. The parameters the
source fixes (`XLEN`, `NREG`, `ROB_SIZE`, `FU_CLASSES`, `FU_PER_CLASS`, `PRED_BUCKETS`, `HIST_BITS`, `PATTERN_SIZE`,
the widths of issue and commit) are built into the types and rules of the model. -/

namespace Sys2Proof

/-- What AUIPC does (R166, decision D7): the as-built reading and the two others the spec names. -/
inductive AuipcMode
  /-- `pc <- pc + imm_U`, no register written (the default). -/
  | pcPlusImmNoWrite
  /-- `pc <- pc + 4`, no register written. -/
  | pcPlus4NoWrite
  /-- RV32I's own definition: `x[rd] <- pc + imm_U; pc <- pc + 4`. -/
  | rv32i
  deriving DecidableEq, Repr

/-- The open parameters of R7. They are fixed for one machine: no step writes them. -/
structure Config where
  /-- `END_WORD`, the end-of-program sentinel (R96, D1). -/
  endWord : Word
  /-- `RESET_PC` (R22, D2). -/
  resetPc : Word
  /-- `RS_SIZE`, the number of reservation-station entries (R32, D4). -/
  rsSize : Nat
  /-- `LSQ_SIZE`, the number of load/store-queue ring slots, one of them kept empty (R34, R271, D5). -/
  lsqSize : Nat
  /-- `MEM_SIZE`, the number of bytes of memory addressable (R70, D20). -/
  memSize : Nat
  /-- `AUIPC_MODE` (R166, D7). -/
  auipcMode : AuipcMode
  deriving DecidableEq, Repr

/-- The defaults R7 states. DESIGN CHOICE of the spec itself (D1, D2, D4, D5, D7, D20); see notes/assumptions/1.md. -/
def Config.default : Config where
  endWord := 0x0FF00513#32
  resetPc := 0x00000000#32
  rsSize := 32
  lsqSize := 32
  memSize := 2 ^ 32
  auipcMode := .pcPlusImmNoWrite

/-- The values the spec allows: `RS_SIZE` >= 1 (D4), `LSQ_SIZE` >= 2 (D5, R271). An LSQ slot index is kept in a
32-bit `dest` field (R31), so a queue has at most 2^32 slots. -/
abbrev Config.Valid (c : Config) : Prop :=
  1 ≤ c.rsSize ∧ 2 ≤ c.lsqSize ∧ c.lsqSize ≤ 2 ^ 32

end Sys2Proof
end

