-- ==== Sys2Proof/Syntax.lean ====
section
/-! DEFINITION. The instructions: one constructor per row of spec/opcode_table.json, the 37 RV32I integer
instructions of R3 and the END sentinel. Operands are the encoded fields of each format (R91 to R98): an immediate
is kept at the width its format encodes, with its scattered bits in order. -/

namespace Sys2Proof

/-- One instruction of the core's subset (R3). `imm` of a branch is `imm[12:0]` and of JAL `imm[20:0]`, whose bit 0
is not encoded and is 0 (R95, R98; `Instr.wellFormed`); `imm` of LUI and AUIPC is `imm[31:12]` (R97). -/
inductive Instr
  /-- END, the whole word `END_WORD` (R96, R160). -/
  | endProg
  | lui (rd : Reg) (imm : BitVec 20)
  | auipc (rd : Reg) (imm : BitVec 20)
  | jal (rd : Reg) (imm : BitVec 21)
  | jalr (rd rs1 : Reg) (imm : BitVec 12)
  | beq (rs1 rs2 : Reg) (imm : BitVec 13)
  | bne (rs1 rs2 : Reg) (imm : BitVec 13)
  | blt (rs1 rs2 : Reg) (imm : BitVec 13)
  | bge (rs1 rs2 : Reg) (imm : BitVec 13)
  | bltu (rs1 rs2 : Reg) (imm : BitVec 13)
  | bgeu (rs1 rs2 : Reg) (imm : BitVec 13)
  | lb (rd rs1 : Reg) (imm : BitVec 12)
  | lh (rd rs1 : Reg) (imm : BitVec 12)
  | lw (rd rs1 : Reg) (imm : BitVec 12)
  | lbu (rd rs1 : Reg) (imm : BitVec 12)
  | lhu (rd rs1 : Reg) (imm : BitVec 12)
  | sb (rs1 rs2 : Reg) (imm : BitVec 12)
  | sh (rs1 rs2 : Reg) (imm : BitVec 12)
  | sw (rs1 rs2 : Reg) (imm : BitVec 12)
  | addi (rd rs1 : Reg) (imm : BitVec 12)
  | slti (rd rs1 : Reg) (imm : BitVec 12)
  | sltiu (rd rs1 : Reg) (imm : BitVec 12)
  | xori (rd rs1 : Reg) (imm : BitVec 12)
  | ori (rd rs1 : Reg) (imm : BitVec 12)
  | andi (rd rs1 : Reg) (imm : BitVec 12)
  | slli (rd rs1 : Reg) (shamt : BitVec 5)
  | srli (rd rs1 : Reg) (shamt : BitVec 5)
  | srai (rd rs1 : Reg) (shamt : BitVec 5)
  | add (rd rs1 rs2 : Reg)
  | sub (rd rs1 rs2 : Reg)
  | sll (rd rs1 rs2 : Reg)
  | slt (rd rs1 rs2 : Reg)
  | sltu (rd rs1 rs2 : Reg)
  | xor (rd rs1 rs2 : Reg)
  | srl (rd rs1 rs2 : Reg)
  | sra (rd rs1 rs2 : Reg)
  | or (rd rs1 rs2 : Reg)
  | and (rd rs1 rs2 : Reg)
  deriving DecidableEq, Repr

end Sys2Proof
end

