-- ==== Sys2Proof/WellFormed.lean ====
section
/-! DEFINITION. Which instruction terms the encoding can spell: branch and JAL offsets are even, because their bit 0
is not encoded (R95, R98, R102, R104). Every other operand field has exactly the width its format gives it, so no
other check is needed. Whether a well-formed term spells `END_WORD` depends on the parameter and is
`Instr.spellsEnd` in Sys2Proof/Decode.lean (R96). -/

namespace Sys2Proof

/-- The offset's bit 0 is 0 in the B and J formats (R95, R98). -/
def Instr.wellFormed : Instr → Bool
  | .jal _ imm => !imm.getLsbD 0
  | .beq _ _ imm => !imm.getLsbD 0
  | .bne _ _ imm => !imm.getLsbD 0
  | .blt _ _ imm => !imm.getLsbD 0
  | .bge _ _ imm => !imm.getLsbD 0
  | .bltu _ _ imm => !imm.getLsbD 0
  | .bgeu _ _ imm => !imm.getLsbD 0
  | .endProg | .lui .. | .auipc .. | .jalr .. | .lb .. | .lh .. | .lw .. | .lbu .. | .lhu ..
  | .sb .. | .sh .. | .sw .. | .addi .. | .slti .. | .sltiu .. | .xori .. | .ori .. | .andi ..
  | .slli .. | .srli .. | .srai .. | .add .. | .sub .. | .sll .. | .slt .. | .sltu .. | .xor ..
  | .srl .. | .sra .. | .or .. | .and .. => true

end Sys2Proof
end

