-- ==== Sys2Proof/Decode.lean ====
section
/-! DEFINITION. The decoder of spec/30_encoding.md R107 to R112, total on every 32-bit word and on every list of
bytes, and after it the encoder, written from the same format tables R92 to R98. The encoding is RV32I's, which the
spec marks as supplied from general knowledge (notes/assumptions/2.md). -/

namespace Sys2Proof

/-! ### Fields (R91) and immediates (R100 to R105) -/

def opcodeOf (w : Word) : BitVec 7 := w.extractLsb' 0 7
def rdOf (w : Word) : Reg := w.extractLsb' 7 5
def funct3Of (w : Word) : BitVec 3 := w.extractLsb' 12 3
def rs1Of (w : Word) : Reg := w.extractLsb' 15 5
def rs2Of (w : Word) : Reg := w.extractLsb' 20 5
def funct7Of (w : Word) : BitVec 7 := w.extractLsb' 25 7

/-- The encoded I immediate `w[31:20]` (R93, R100). -/
def immIOf (w : Word) : BitVec 12 := w.extractLsb' 20 12

/-- The encoded S immediate `w[31:25] ‖ w[11:7]` (R94, R101). -/
def immSOf (w : Word) : BitVec 12 := w.extractLsb' 25 7 ++ w.extractLsb' 7 5

/-- The encoded B immediate `w[31] ‖ w[7] ‖ w[30:25] ‖ w[11:8] ‖ 0` (R95, R102). -/
def immBOf (w : Word) : BitVec 13 :=
  w.extractLsb' 31 1 ++ w.extractLsb' 7 1 ++ w.extractLsb' 25 6 ++ w.extractLsb' 8 4 ++ 0#1

/-- The encoded U immediate `w[31:12]` (R97, R103). -/
def immUOf (w : Word) : BitVec 20 := w.extractLsb' 12 20

/-- The encoded J immediate `w[31] ‖ w[19:12] ‖ w[20] ‖ w[30:21] ‖ 0` (R98, R104). -/
def immJOf (w : Word) : BitVec 21 :=
  w.extractLsb' 31 1 ++ w.extractLsb' 12 8 ++ w.extractLsb' 20 1 ++ w.extractLsb' 21 10 ++ 0#1

/-- The shift amount `w[24:20]` (R105). -/
def shamtOf (w : Word) : BitVec 5 := w.extractLsb' 20 5

/-! ### Decoding (R107 to R109) -/

/-- Why a word is no instruction of the subset (R112). -/
inductive Reject
  /-- `w[6:0]` is not in the table of R108. -/
  | majorOpcode
  /-- the major opcode is known, its `funct3` is in no row of R109. -/
  | funct3
  /-- opcode and `funct3` are known, `funct7` is in no row of R109. -/
  | funct7
  /-- fewer than four bytes were given (no instruction is shorter, R90). -/
  | truncated
  deriving DecidableEq, Repr

/-- BRANCH, opcode `1100011` (R109). -/
def decodeBranch (w : Word) : Except Reject Instr :=
  if funct3Of w = 0b000#3 then .ok (.beq (rs1Of w) (rs2Of w) (immBOf w))
  else if funct3Of w = 0b001#3 then .ok (.bne (rs1Of w) (rs2Of w) (immBOf w))
  else if funct3Of w = 0b100#3 then .ok (.blt (rs1Of w) (rs2Of w) (immBOf w))
  else if funct3Of w = 0b101#3 then .ok (.bge (rs1Of w) (rs2Of w) (immBOf w))
  else if funct3Of w = 0b110#3 then .ok (.bltu (rs1Of w) (rs2Of w) (immBOf w))
  else if funct3Of w = 0b111#3 then .ok (.bgeu (rs1Of w) (rs2Of w) (immBOf w))
  else .error .funct3

/-- LOAD, opcode `0000011` (R109). -/
def decodeLoad (w : Word) : Except Reject Instr :=
  if funct3Of w = 0b000#3 then .ok (.lb (rdOf w) (rs1Of w) (immIOf w))
  else if funct3Of w = 0b001#3 then .ok (.lh (rdOf w) (rs1Of w) (immIOf w))
  else if funct3Of w = 0b010#3 then .ok (.lw (rdOf w) (rs1Of w) (immIOf w))
  else if funct3Of w = 0b100#3 then .ok (.lbu (rdOf w) (rs1Of w) (immIOf w))
  else if funct3Of w = 0b101#3 then .ok (.lhu (rdOf w) (rs1Of w) (immIOf w))
  else .error .funct3

/-- STORE, opcode `0100011` (R109). -/
def decodeStore (w : Word) : Except Reject Instr :=
  if funct3Of w = 0b000#3 then .ok (.sb (rs1Of w) (rs2Of w) (immSOf w))
  else if funct3Of w = 0b001#3 then .ok (.sh (rs1Of w) (rs2Of w) (immSOf w))
  else if funct3Of w = 0b010#3 then .ok (.sw (rs1Of w) (rs2Of w) (immSOf w))
  else .error .funct3

/-- OP-IMM, opcode `0010011` (R109); the shifts check `funct7` (R93, R229 to R231). -/
def decodeOpImm (w : Word) : Except Reject Instr :=
  if funct3Of w = 0b000#3 then .ok (.addi (rdOf w) (rs1Of w) (immIOf w))
  else if funct3Of w = 0b010#3 then .ok (.slti (rdOf w) (rs1Of w) (immIOf w))
  else if funct3Of w = 0b011#3 then .ok (.sltiu (rdOf w) (rs1Of w) (immIOf w))
  else if funct3Of w = 0b100#3 then .ok (.xori (rdOf w) (rs1Of w) (immIOf w))
  else if funct3Of w = 0b110#3 then .ok (.ori (rdOf w) (rs1Of w) (immIOf w))
  else if funct3Of w = 0b111#3 then .ok (.andi (rdOf w) (rs1Of w) (immIOf w))
  else if funct3Of w = 0b001#3 then
    if funct7Of w = 0b0000000#7 then .ok (.slli (rdOf w) (rs1Of w) (shamtOf w))
    else .error .funct7
  else
    if funct7Of w = 0b0000000#7 then .ok (.srli (rdOf w) (rs1Of w) (shamtOf w))
    else if funct7Of w = 0b0100000#7 then .ok (.srai (rdOf w) (rs1Of w) (shamtOf w))
    else .error .funct7

/-- OP, opcode `0110011` (R109): `funct7` is always checked. -/
def decodeOp (w : Word) : Except Reject Instr :=
  if funct7Of w = 0b0000000#7 then
    if funct3Of w = 0b000#3 then .ok (.add (rdOf w) (rs1Of w) (rs2Of w))
    else if funct3Of w = 0b001#3 then .ok (.sll (rdOf w) (rs1Of w) (rs2Of w))
    else if funct3Of w = 0b010#3 then .ok (.slt (rdOf w) (rs1Of w) (rs2Of w))
    else if funct3Of w = 0b011#3 then .ok (.sltu (rdOf w) (rs1Of w) (rs2Of w))
    else if funct3Of w = 0b100#3 then .ok (.xor (rdOf w) (rs1Of w) (rs2Of w))
    else if funct3Of w = 0b101#3 then .ok (.srl (rdOf w) (rs1Of w) (rs2Of w))
    else if funct3Of w = 0b110#3 then .ok (.or (rdOf w) (rs1Of w) (rs2Of w))
    else .ok (.and (rdOf w) (rs1Of w) (rs2Of w))
  else if funct7Of w = 0b0100000#7 then
    if funct3Of w = 0b000#3 then .ok (.sub (rdOf w) (rs1Of w) (rs2Of w))
    else if funct3Of w = 0b101#3 then .ok (.sra (rdOf w) (rs1Of w) (rs2Of w))
    else .error .funct7
  else .error .funct7

/-- Steps (2) to (4) of R107: the major opcode, then `funct3` and `funct7`. -/
def decodeRv32i (w : Word) : Except Reject Instr :=
  if opcodeOf w = 0b0110111#7 then .ok (.lui (rdOf w) (immUOf w))
  else if opcodeOf w = 0b0010111#7 then .ok (.auipc (rdOf w) (immUOf w))
  else if opcodeOf w = 0b1101111#7 then .ok (.jal (rdOf w) (immJOf w))
  else if opcodeOf w = 0b1100111#7 then
    if funct3Of w = 0b000#3 then .ok (.jalr (rdOf w) (rs1Of w) (immIOf w)) else .error .funct3
  else if opcodeOf w = 0b1100011#7 then decodeBranch w
  else if opcodeOf w = 0b0000011#7 then decodeLoad w
  else if opcodeOf w = 0b0100011#7 then decodeStore w
  else if opcodeOf w = 0b0010011#7 then decodeOpImm w
  else if opcodeOf w = 0b0110011#7 then decodeOp w
  else .error .majorOpcode

/-- R107: the whole word is compared with `END_WORD` before any field is decoded (R96). -/
def decode (endWord w : Word) : Except Reject Instr :=
  if w = endWord then .ok .endProg else decodeRv32i w

/-- The word whose byte at the lowest address is `b0`: little-endian (R62, R90). -/
def wordOfBytes (b0 b1 b2 b3 : Byte) : Word := b3 ++ b2 ++ b1 ++ b0

/-- Decoding from a list of bytes, lowest address first, with the bytes left over. -/
def decodeBytes (endWord : Word) : List Byte → Except Reject (Instr × List Byte)
  | b0 :: b1 :: b2 :: b3 :: rest =>
    match decode endWord (wordOfBytes b0 b1 b2 b3) with
    | .ok i => .ok (i, rest)
    | .error r => .error r
  | _ => .error .truncated

/-- The four bytes of a word in address order (R62). -/
def bytesOfWord (w : Word) : List Byte :=
  [w.extractLsb' 0 8, w.extractLsb' 8 8, w.extractLsb' 16 8, w.extractLsb' 24 8]

/-- What the decoder reads from a table word of `nbits` bits (bits above `nbits` are 0), with the default
`END_WORD`. -/
def decodeTableWord (nbits w : Nat) : Option Instr :=
  match decodeBytes Config.default.endWord (bytesOfWord (BitVec.ofNat 32 (w % 2 ^ nbits))) with
  | .ok (i, _) => some i
  | .error _ => none

/-! ### Encoding (R92 to R98, R109) -/

/-- R format (R92). -/
def rType (funct7 : BitVec 7) (rs2 rs1 : Reg) (funct3 : BitVec 3) (rd : Reg) (op : BitVec 7) : Word :=
  funct7 ++ rs2 ++ rs1 ++ funct3 ++ rd ++ op

/-- I format (R93). -/
def iType (imm : BitVec 12) (rs1 : Reg) (funct3 : BitVec 3) (rd : Reg) (op : BitVec 7) : Word :=
  imm ++ rs1 ++ funct3 ++ rd ++ op

/-- S format (R94). -/
def sType (imm : BitVec 12) (rs2 rs1 : Reg) (funct3 : BitVec 3) (op : BitVec 7) : Word :=
  imm.extractLsb' 5 7 ++ rs2 ++ rs1 ++ funct3 ++ imm.extractLsb' 0 5 ++ op

/-- B format (R95). -/
def bType (imm : BitVec 13) (rs2 rs1 : Reg) (funct3 : BitVec 3) (op : BitVec 7) : Word :=
  imm.extractLsb' 12 1 ++ imm.extractLsb' 5 6 ++ rs2 ++ rs1 ++ funct3 ++ imm.extractLsb' 1 4
    ++ imm.extractLsb' 11 1 ++ op

/-- U format (R97). -/
def uType (imm : BitVec 20) (rd : Reg) (op : BitVec 7) : Word := imm ++ rd ++ op

/-- J format (R98). -/
def jType (imm : BitVec 21) (rd : Reg) (op : BitVec 7) : Word :=
  imm.extractLsb' 20 1 ++ imm.extractLsb' 1 10 ++ imm.extractLsb' 11 1 ++ imm.extractLsb' 12 8 ++ rd ++ op

/-- The word of an instruction (R109); END is the parameter `END_WORD` itself (R96). -/
def encode (endWord : Word) : Instr → Word
  | .endProg => endWord
  | .lui rd imm => uType imm rd 0b0110111#7
  | .auipc rd imm => uType imm rd 0b0010111#7
  | .jal rd imm => jType imm rd 0b1101111#7
  | .jalr rd rs1 imm => iType imm rs1 0b000#3 rd 0b1100111#7
  | .beq rs1 rs2 imm => bType imm rs2 rs1 0b000#3 0b1100011#7
  | .bne rs1 rs2 imm => bType imm rs2 rs1 0b001#3 0b1100011#7
  | .blt rs1 rs2 imm => bType imm rs2 rs1 0b100#3 0b1100011#7
  | .bge rs1 rs2 imm => bType imm rs2 rs1 0b101#3 0b1100011#7
  | .bltu rs1 rs2 imm => bType imm rs2 rs1 0b110#3 0b1100011#7
  | .bgeu rs1 rs2 imm => bType imm rs2 rs1 0b111#3 0b1100011#7
  | .lb rd rs1 imm => iType imm rs1 0b000#3 rd 0b0000011#7
  | .lh rd rs1 imm => iType imm rs1 0b001#3 rd 0b0000011#7
  | .lw rd rs1 imm => iType imm rs1 0b010#3 rd 0b0000011#7
  | .lbu rd rs1 imm => iType imm rs1 0b100#3 rd 0b0000011#7
  | .lhu rd rs1 imm => iType imm rs1 0b101#3 rd 0b0000011#7
  | .sb rs1 rs2 imm => sType imm rs2 rs1 0b000#3 0b0100011#7
  | .sh rs1 rs2 imm => sType imm rs2 rs1 0b001#3 0b0100011#7
  | .sw rs1 rs2 imm => sType imm rs2 rs1 0b010#3 0b0100011#7
  | .addi rd rs1 imm => iType imm rs1 0b000#3 rd 0b0010011#7
  | .slti rd rs1 imm => iType imm rs1 0b010#3 rd 0b0010011#7
  | .sltiu rd rs1 imm => iType imm rs1 0b011#3 rd 0b0010011#7
  | .xori rd rs1 imm => iType imm rs1 0b100#3 rd 0b0010011#7
  | .ori rd rs1 imm => iType imm rs1 0b110#3 rd 0b0010011#7
  | .andi rd rs1 imm => iType imm rs1 0b111#3 rd 0b0010011#7
  | .slli rd rs1 shamt => rType 0b0000000#7 shamt rs1 0b001#3 rd 0b0010011#7
  | .srli rd rs1 shamt => rType 0b0000000#7 shamt rs1 0b101#3 rd 0b0010011#7
  | .srai rd rs1 shamt => rType 0b0100000#7 shamt rs1 0b101#3 rd 0b0010011#7
  | .add rd rs1 rs2 => rType 0b0000000#7 rs2 rs1 0b000#3 rd 0b0110011#7
  | .sub rd rs1 rs2 => rType 0b0100000#7 rs2 rs1 0b000#3 rd 0b0110011#7
  | .sll rd rs1 rs2 => rType 0b0000000#7 rs2 rs1 0b001#3 rd 0b0110011#7
  | .slt rd rs1 rs2 => rType 0b0000000#7 rs2 rs1 0b010#3 rd 0b0110011#7
  | .sltu rd rs1 rs2 => rType 0b0000000#7 rs2 rs1 0b011#3 rd 0b0110011#7
  | .xor rd rs1 rs2 => rType 0b0000000#7 rs2 rs1 0b100#3 rd 0b0110011#7
  | .srl rd rs1 rs2 => rType 0b0000000#7 rs2 rs1 0b101#3 rd 0b0110011#7
  | .sra rd rs1 rs2 => rType 0b0100000#7 rs2 rs1 0b101#3 rd 0b0110011#7
  | .or rd rs1 rs2 => rType 0b0000000#7 rs2 rs1 0b110#3 rd 0b0110011#7
  | .and rd rs1 rs2 => rType 0b0000000#7 rs2 rs1 0b111#3 rd 0b0110011#7

/-- The term is an RV32I instruction whose word is `END_WORD`, which the core never executes as that instruction
(R96, R404): with the default, `addi x10, x0, 255`. -/
def Instr.spellsEnd (endWord : Word) (i : Instr) : Bool :=
  i != .endProg && encode endWord i == endWord

/-- The instructions that some word decodes to: well formed, and not hidden behind `END_WORD`. -/
def Instr.decodable (endWord : Word) (i : Instr) : Bool :=
  i.wellFormed && !i.spellsEnd endWord

/-! ### The table of R109 -/

/-- One row of R109: the index of the mnemonic's row, `match` and `mask`. -/
structure OpRow where
  mnemonic : String
  value : Word
  mask : Word
  deriving DecidableEq, Repr

/-- "A word `w` spells the instruction of a row when `w AND mask = match`" (R109). -/
def OpRow.spells (r : OpRow) (w : Word) : Bool := w &&& r.mask == r.value

/-- The 37 rows of R109 below END, copied from the spec's table (spec/opcode_table.json). -/
def opcodeTable : List OpRow :=
  [⟨"LUI", 0x00000037#32, 0x0000007F#32⟩, ⟨"AUIPC", 0x00000017#32, 0x0000007F#32⟩,
   ⟨"JAL", 0x0000006F#32, 0x0000007F#32⟩, ⟨"JALR", 0x00000067#32, 0x0000707F#32⟩,
   ⟨"BEQ", 0x00000063#32, 0x0000707F#32⟩, ⟨"BNE", 0x00001063#32, 0x0000707F#32⟩,
   ⟨"BLT", 0x00004063#32, 0x0000707F#32⟩, ⟨"BGE", 0x00005063#32, 0x0000707F#32⟩,
   ⟨"BLTU", 0x00006063#32, 0x0000707F#32⟩, ⟨"BGEU", 0x00007063#32, 0x0000707F#32⟩] ++
  [⟨"LB", 0x00000003#32, 0x0000707F#32⟩, ⟨"LH", 0x00001003#32, 0x0000707F#32⟩,
   ⟨"LW", 0x00002003#32, 0x0000707F#32⟩, ⟨"LBU", 0x00004003#32, 0x0000707F#32⟩,
   ⟨"LHU", 0x00005003#32, 0x0000707F#32⟩, ⟨"SB", 0x00000023#32, 0x0000707F#32⟩,
   ⟨"SH", 0x00001023#32, 0x0000707F#32⟩, ⟨"SW", 0x00002023#32, 0x0000707F#32⟩] ++
  [⟨"ADDI", 0x00000013#32, 0x0000707F#32⟩, ⟨"SLTI", 0x00002013#32, 0x0000707F#32⟩,
   ⟨"SLTIU", 0x00003013#32, 0x0000707F#32⟩, ⟨"XORI", 0x00004013#32, 0x0000707F#32⟩,
   ⟨"ORI", 0x00006013#32, 0x0000707F#32⟩, ⟨"ANDI", 0x00007013#32, 0x0000707F#32⟩,
   ⟨"SLLI", 0x00001013#32, 0xFE00707F#32⟩, ⟨"SRLI", 0x00005013#32, 0xFE00707F#32⟩,
   ⟨"SRAI", 0x40005013#32, 0xFE00707F#32⟩] ++
  [⟨"ADD", 0x00000033#32, 0xFE00707F#32⟩, ⟨"SUB", 0x40000033#32, 0xFE00707F#32⟩,
   ⟨"SLL", 0x00001033#32, 0xFE00707F#32⟩, ⟨"SLT", 0x00002033#32, 0xFE00707F#32⟩,
   ⟨"SLTU", 0x00003033#32, 0xFE00707F#32⟩, ⟨"XOR", 0x00004033#32, 0xFE00707F#32⟩,
   ⟨"SRL", 0x00005033#32, 0xFE00707F#32⟩, ⟨"SRA", 0x40005033#32, 0xFE00707F#32⟩,
   ⟨"OR", 0x00006033#32, 0xFE00707F#32⟩, ⟨"AND", 0x00007033#32, 0xFE00707F#32⟩]

/-- The mnemonic of an instruction, as the tables spell it. -/
def Instr.mnemonic : Instr → String
  | .endProg => "END" | .lui .. => "LUI" | .auipc .. => "AUIPC" | .jal .. => "JAL" | .jalr .. => "JALR"
  | .beq .. => "BEQ" | .bne .. => "BNE" | .blt .. => "BLT" | .bge .. => "BGE" | .bltu .. => "BLTU"
  | .bgeu .. => "BGEU" | .lb .. => "LB" | .lh .. => "LH" | .lw .. => "LW" | .lbu .. => "LBU"
  | .lhu .. => "LHU" | .sb .. => "SB" | .sh .. => "SH" | .sw .. => "SW" | .addi .. => "ADDI"
  | .slti .. => "SLTI" | .sltiu .. => "SLTIU" | .xori .. => "XORI" | .ori .. => "ORI" | .andi .. => "ANDI"
  | .slli .. => "SLLI" | .srli .. => "SRLI" | .srai .. => "SRAI" | .add .. => "ADD" | .sub .. => "SUB"
  | .sll .. => "SLL" | .slt .. => "SLT" | .sltu .. => "SLTU" | .xor .. => "XOR" | .srl .. => "SRL"
  | .sra .. => "SRA" | .or .. => "OR" | .and .. => "AND"

end Sys2Proof
end

