-- ==== Sys2Proof/Machine/State.lean ====
section
/-! DEFINITION. The state of the core (spec/10_state.md): every field the spec gives the machine, as plain data, and
its value after reset (R47, R390). All clocked fields stand in one `Bank`; the state holds a current and a next copy
of it (R131), the one memory (R26, R75), the run status (R27) and the machine's parameters (R7). -/

namespace Sys2Proof.Machine

/-! ### Register file and register alias table (R20, R29) -/

/-- One register with its alias: committed value, `dirty`, `dep` (R20, R29). -/
structure RegEntry where
  value : Word
  dirty : Bool
  dep : Slot
  deriving DecidableEq, Repr

def RegEntry.reset : RegEntry := ⟨0#32, false, 0#5⟩

/-! ### Reorder buffer (R30, R31) -/

/-- The four kinds of a RoB entry (R31). -/
inductive RobKind
  | registerWrite | memoryWrite | branch | endProg
  deriving DecidableEq, Repr

/-- A RoB entry (R31). `dest` is a register index, an LSQ slot index or the taken target, by `kind`. -/
structure RobEntry where
  ready : Bool
  predicted : Bool
  kind : RobKind
  dest : Word
  value : Word
  baddr : Word
  deriving DecidableEq, Repr

def RobEntry.reset : RobEntry := ⟨false, false, .registerWrite, 0#32, 0#32, 0#32⟩

/-! ### Reservation station (R32) -/

/-- The `op` field of an RS entry: one of 25 operations (R192). -/
inductive RsOp
  | addi | slti | sltiu | xori | ori | andi | slli | srli | srai
  | add | sub | sll | slt | sltu | xor | srl | sra | or | and
  | beq | bne | blt | bge | bltu | bgeu
  deriving DecidableEq, Repr

/-- A reservation-station entry (R32). -/
structure RsEntry where
  empty : Bool
  busy : Bool
  issued : Bool
  op : RsOp
  q1c : Bool
  q1 : Slot
  v1 : Word
  q2c : Bool
  q2 : Slot
  v2 : Word
  rob : Slot
  deriving DecidableEq, Repr

def RsEntry.reset : RsEntry :=
  { empty := true, busy := false, issued := false, op := .addi, q1c := false, q1 := 0#5, v1 := 0#32,
    q2c := false, q2 := 0#5, v2 := 0#32, rob := 0#5 }

/-! ### Functional units (R33) -/

/-- The four classes of functional unit (R33, R191). -/
inductive FuClass
  | add | shift | setCmp | logic
  deriving DecidableEq, Repr

/-- The two instances of a class, units 0 and 1 (R33). -/
inductive FuInst
  | u0 | u1
  deriving DecidableEq, Repr

/-- A functional unit (R33); the document's `nextResult`/`nextIndex` are these fields of the next copy. -/
structure Fu where
  busy : Bool
  finished : Bool
  result : Word
  index : Slot
  deriving DecidableEq, Repr

/-- An idle unit: its value at reset (R33) and after a harvest or a flush (R196, R322). -/
def Fu.idle : Fu := ⟨false, false, 0#32, 0#5⟩

structure FuPair where
  u0 : Fu
  u1 : Fu
  deriving DecidableEq, Repr

/-- The eight units `fu[c][u]` (R33). -/
structure FuArray where
  add : FuPair
  shift : FuPair
  setCmp : FuPair
  logic : FuPair
  deriving DecidableEq, Repr

/-- All eight units idle (R33, R322). -/
def FuArray.idle : FuArray := ⟨⟨.idle, .idle⟩, ⟨.idle, .idle⟩, ⟨.idle, .idle⟩, ⟨.idle, .idle⟩⟩

/-! ### Load/store queue (R34 to R36) -/

/-- The `type` field of an LSQ entry (R35, R272). -/
inductive LsqType
  | lb | lh | lw | lbu | lhu | sb | sh | sw
  deriving DecidableEq, Repr

/-- A load/store-queue entry (R35). `ready`: for a load, base resolved; for a store, committed. -/
structure LsqEntry where
  ready : Bool
  basec : Bool
  baseq : Slot
  valuec : Bool
  valueq : Slot
  type : LsqType
  base : Word
  offset : Word
  value : Word
  rob : Slot
  deriving DecidableEq, Repr

def LsqEntry.reset : LsqEntry :=
  { ready := false, basec := false, baseq := 0#5, valuec := false, valueq := 0#5, type := .lb,
    base := 0#32, offset := 0#32, value := 0#32, rob := 0#5 }

/-! ### Fetch unit and branch predictor (R28, R37) -/

/-- The JALR wait record (R28). -/
structure JalrWait where
  valid : Bool
  q : Slot
  imm : Word
  deriving DecidableEq, Repr

/-- One predictor bucket: 4-bit history and 16 pattern bits (R37). -/
structure Bucket where
  hist : BitVec 4
  pattern : Vector Bool 16
  deriving DecidableEq, Repr

/-- Every history 0000 and every pattern entry false (R37). -/
def Bucket.reset : Bucket := ⟨0#4, Vector.replicate 16 false⟩

/-- The 4096 buckets, held as the list of those that differ from `Bucket.reset`, in the canonical form
`Predictor.Wf` (R37). -/
abbrev Predictor := List (Nat × Bucket)

/-- Canonical form of the bucket table: indices rise, are below 4096, and no listed bucket is the reset one. -/
abbrev Predictor.Wf (p : Predictor) : Prop :=
  p.Pairwise (fun a b => a.1 < b.1) ∧ ∀ c ∈ p, c.1 < 4096 ∧ c.2 ≠ Bucket.reset

/-! ### Memory (R26, R60) -/

/-- The one byte-addressed memory, held as the list of bytes that differ from what an unlisted address reads as. -/
abbrev Memory := List Host.Cell

/-- What a byte that neither the host nor a store has written reads as: `0x00` (R26, decision D37;
notes/assumptions/4.md). -/
def Memory.unlisted : Byte := 0#8

/-- Canonical form of memory: addresses rise, fit 32 bits, and no listed byte equals the unlisted one. -/
abbrev Memory.wf (m : Memory) : Prop :=
  m.Pairwise (fun a b => a.1 < b.1) ∧ ∀ c ∈ m, c.1 < 2 ^ 32 ∧ c.2 ≠ Memory.unlisted

/-! ### One copy of every clocked field (R131) -/

/-- The fields of spec/10_state.md that exist in a current and a next copy (R131). -/
structure Bank where
  /-- `pc`, the address of the next word to fetch (R22). -/
  pc : Word
  /-- `fetch_stopped` (R28). -/
  fetchStopped : Bool
  /-- `jalr_wait` (R28). -/
  jalrWait : JalrWait
  /-- `reg[0..31]`: committed values and the alias table (R20, R29). -/
  reg : Vector RegEntry 32
  /-- `rob[0..31]` (R30, R31). -/
  rob : Vector RobEntry 32
  robHead : Slot
  robTail : Slot
  /-- `rs[0..RS_SIZE-1]` (R32). -/
  rs : List RsEntry
  /-- `fu[c][u]` (R33). -/
  fu : FuArray
  /-- `lsq[0..LSQ_SIZE-1]` (R34, R35). -/
  lsq : List LsqEntry
  lsqHead : Nat
  lsqTail : Nat
  /-- `lsq_inflight`, `lsq_count` (R36). -/
  lsqInflight : Bool
  lsqCount : BitVec 2
  /-- `hist[b]`, `pattern[b]` (R37). -/
  pred : Predictor
  /-- `pred_correct`, `pred_incorrect` (R43). -/
  predCorrect : Nat
  predIncorrect : Nat
  /-- `clock` (R45). -/
  clock : Nat
  deriving DecidableEq, Repr

/-- The reset values of R20, R22, R28 to R37, R43, R45 for a machine with parameters `c` (R47, R390). The source
gives none: they are the spec's decisions D2 and D3 (notes/assumptions/3.md). -/
def Bank.resetWith (c : Config) : Bank where
  pc := c.resetPc
  fetchStopped := false
  jalrWait := ⟨false, 0#5, 0#32⟩
  reg := Vector.replicate 32 RegEntry.reset
  rob := Vector.replicate 32 RobEntry.reset
  robHead := 0#5
  robTail := 0#5
  rs := List.replicate c.rsSize RsEntry.reset
  fu := FuArray.idle
  lsq := List.replicate c.lsqSize LsqEntry.reset
  lsqHead := 0
  lsqTail := 0
  lsqInflight := false
  lsqCount := 0#2
  pred := []
  predCorrect := 0
  predIncorrect := 0
  clock := 0

/-! ### Status, faults, refusals -/

/-- The structural preconditions of R371 that the model carries as checks. None fails in a state reachable from
reset (R371). -/
inductive Assertion
  /-- `rob_add` on a full reorder buffer (R312). -/
  | robAddFull
  /-- the commit of a MemoryWrite entry whose LSQ slot is not an uncommitted store (R318). -/
  | commitNotStore
  deriving DecidableEq, Repr

/-- The reasons of `Fatal(reason)` (R371). -/
inductive FatalReason
  /-- Raised by the fetch step on a word that is not `END_WORD` and matches no row of R109 (R112, R154). -/
  | decodeError (w : Word)
  /-- Raised by the fetch step or the LSQ step when `MEM_SIZE` < 2^32 and the access touches byte address `a` at or
  beyond it (R70). -/
  | memRange (a : Nat)
  /-- Raised by `rob_add` and by the commit step when a structural precondition fails (R371). -/
  | internalAssert (what : Assertion)
  deriving DecidableEq, Repr

/-- The run status (R27). -/
inductive Status
  | running
  /-- `Halted(code)`, set by the commit of the End entry (R321). -/
  | halted (code : BitVec 8)
  /-- `Fatal(reason)` (R371). A step that raises it answers `Fault.fatal reason`, since no state is defined then
  (U14); `State.afterFatal` writes this value for the host that looks at the status. -/
  | fatal (reason : FatalReason)
  deriving DecidableEq, Repr

/-- Why a step answers no next state. -/
inductive Fault
  /-- `raise Fatal(reason)`: raised by the fetch, LSQ and commit steps, and again by any step from a state whose
  status is already Fatal. Safe: the spec ends the run here and defines no state (R371). -/
  | fatal (reason : FatalReason)
  /-- Raised by any step from a state whose status is Halted: no further cycle is taken (R27). Safe. -/
  | halted (code : BitVec 8)
  deriving DecidableEq, Repr

/-- Why an instruction has no meaning. -/
inductive Refusal
  /-- Raised by an arm of `exec` whose instruction has no meaning yet; no arm of this model does. Safe. -/
  | notModelled (mnemonic : String)
  deriving DecidableEq, Repr

/-! ### The state -/

/-- The whole machine. `cfg` holds the parameters of R7, which no step writes; between cycles `nxt = cur` (R131). -/
structure State where
  cfg : Config
  cur : Bank
  nxt : Bank
  mem : Memory
  status : Status
  deriving DecidableEq, Repr

/-- The state right after reset of a machine with parameters `c`, memory not loaded (R390). -/
def State.resetWith (c : Config) : State where
  cfg := c
  cur := Bank.resetWith c
  nxt := Bank.resetWith c
  mem := []
  status := .running

/-- The state right after reset under the default parameters of R7. A program comes to run by the host's load of
memory (`State.loadImage`, R397; notes/assumptions/5.md). -/
def State.reset : State := State.resetWith Config.default

/-- Answer of a unit's step or of an instruction's meaning. -/
abbrev Result := Host.Outcome State Fault Refusal

end Sys2Proof.Machine
end

