-- ==== Sys2Proof/Machine/Ops.lean ====
section
/-! DEFINITION. The shared operations over the state: sequencing, raising Fatal, tables of 32 slots, memory, the
register file with its alias table (spec/47_register_alias_table.md), the reorder-buffer ring
(spec/46_reorder_buffer_commit.md R312) and the load/store-queue ring (R34). The hardware has no exception, trap or
trap return (R370, R375, R376): what stands in their place is `raiseFatal` here, and the misprediction flush
(`flushMispredicted`, R322), the only recovery mechanism, in Machine/Commit.lean. -/

namespace Sys2Proof.Machine

/-! ### Sequencing and Fatal -/

/-- Go on with `f` after a next state; a fault or a refusal ends the cycle (R135). -/
def bindNext (r : Result) (f : State → Result) : Result :=
  match r with
  | .next s => f s
  | .fault e => .fault e
  | .refused e => .refused e

/-- `raise Fatal(reason)` (R10, R371): the run is over and no state is defined, so nothing is answered but the
reason. -/
def raiseFatal (reason : FatalReason) : Result := .fault (.fatal reason)

/-- The status as the host finds it after `raise Fatal(reason)` in `s`; nothing else of that state is defined
(R371, U14). -/
def State.afterFatal (s : State) (reason : FatalReason) : State := { s with status := .fatal reason }

/-! ### Tables of 32 slots (register file, reorder buffer) -/

def slotGet {α : Type} (t : Vector α 32) (i : BitVec 5) : α := t[i.toNat]'(i.isLt)

def slotSet {α : Type} (t : Vector α 32) (i : BitVec 5) (a : α) : Vector α 32 := t.set i.toNat a i.isLt

/-- Apply `f` to every slot. -/
def slotMap {α : Type} (f : α → α) (t : Vector α 32) : Vector α 32 :=
  ⟨⟨t.toList.map f⟩, by simp⟩

/-! ### Sparse tables in canonical form -/

/-- The entry at key `a`, `d` where none is listed. -/
def sparseGet {α : Type} (d : α) : List (Nat × α) → Nat → α
  | [], _ => d
  | (k, v) :: t, a => if a = k then v else sparseGet d t a

/-- Write `x` at key `a`; writing the unlisted value `d` removes the entry. -/
def sparsePut {α : Type} [DecidableEq α] (d : α) : List (Nat × α) → Nat → α → List (Nat × α)
  | [], a, x => if x = d then [] else [(a, x)]
  | (k, v) :: t, a, x =>
    if a < k then (if x = d then (k, v) :: t else (a, x) :: (k, v) :: t)
    else if a = k then (if x = d then t else (a, x) :: t)
    else (k, v) :: sparsePut d t a x

/-! ### Memory (spec/20_memory.md) -/

/-- The byte at address `a` (R26). -/
def readByte (m : Memory) (a : Word) : Byte := sparseGet Memory.unlisted m a.toNat

/-- Set the byte at address `a` (R26). -/
def writeByte (m : Memory) (a : Word) (v : Byte) : Memory := sparsePut Memory.unlisted m a.toNat v

/-- `MemRead(a, 1)` (R62). -/
def memRead1 (m : Memory) (a : Word) : BitVec 8 := readByte m a

/-- `MemRead(a, 2)`: little-endian, addresses modulo 2^32 (R62, R64). -/
def memRead2 (m : Memory) (a : Word) : BitVec 16 := readByte m (a + 1#32) ++ readByte m a

/-- `MemRead(a, 4)`: little-endian, addresses modulo 2^32 (R62, R64). -/
def memRead4 (m : Memory) (a : Word) : BitVec 32 :=
  wordOfBytes (readByte m a) (readByte m (a + 1#32)) (readByte m (a + 2#32)) (readByte m (a + 3#32))

/-- `MemWrite(a, n, v)`: the byte at `a + i` becomes `v[8*i+7 : 8*i]` for i below `n` (R63, R64). -/
def memWrite (m : Memory) (a : Word) : Nat → Word → Memory
  | 0, _ => m
  | n + 1, v => writeByte (memWrite m a n v) (a + BitVec.ofNat 32 n) (v.extractLsb' (8 * n) 8)

/-- The first byte address at or beyond `MEM_SIZE` that an access of `n` bytes at `a` touches, if any (R70;
notes/assumptions/7.md). -/
def outOfRange (c : Config) (a : Word) (n : Nat) : Option Nat :=
  ((List.range n).map fun i => (a + BitVec.ofNat 32 i).toNat).find? fun x => decide (c.memSize ≤ x)

/-! ### Register file and alias table (R340 to R346) -/

/-- `Read(i)`: the committed value; register 0 is hard-wired to zero (R342, R345). -/
def Bank.regRead (b : Bank) (i : Reg) : Word := if i = 0#5 then 0#32 else (slotGet b.reg i).value

/-- `AboutToWrite(i, slot)`: rename `i` in the next copy; nothing for register 0 (R343, R345). -/
def aboutToWrite (i : Reg) (slot : Slot) (s : State) : State :=
  if i = 0#5 then s
  else { s with nxt.reg := slotSet s.nxt.reg i { slotGet s.nxt.reg i with dirty := true, dep := slot } }

/-- The fetch step of this cycle has renamed `i`: it allocated, at slot `cur.rob_tail`, a RegisterWrite entry for
`i` (R176, R344). -/
def State.renamedThisCycle (s : State) (i : Reg) : Bool :=
  s.nxt.robTail != s.cur.robTail
    && (slotGet s.nxt.rob s.cur.robTail).kind == .registerWrite
    && (slotGet s.nxt.rob s.cur.robTail).dest == i.setWidth 32

/-- `Write(i, v, h)`: stage the value and clear `dirty` only if `cur.reg[i].dep = h` and no rename of this cycle wins
(R344, D19, D34); nothing for register 0 (R345). -/
def regWrite (i : Reg) (v : Word) (h : Slot) (s : State) : State :=
  if i = 0#5 then s
  else
    let e := slotGet s.nxt.reg i
    let clears := (slotGet s.cur.reg i).dep == h && !s.renamedThisCycle i
    { s with nxt.reg := slotSet s.nxt.reg i { e with value := v, dirty := if clears then false else e.dirty } }

/-! ### Reorder-buffer ring (R30, R312) -/

def Bank.robEmpty (b : Bank) : Bool := b.robHead == b.robTail

def Bank.robFull (b : Bank) : Bool := b.robTail + 1#5 == b.robHead

/-- The number of occupied slots (R30). -/
def Bank.robCount (b : Bank) : Nat := (b.robTail - b.robHead).toNat

/-- Slot `i` lies between the cursors (R30). -/
def Bank.robOccupied (b : Bank) (i : Slot) : Bool := (i - b.robHead).toNat < b.robCount

/-- `rob_add(e)` (R312): allocate slot `cur.rob_tail`, advance the tail, rename the destination of a RegisterWrite
(R176). On a full buffer it is `Fatal(InternalAssert)` (R312, R371). The slot returned is `s.cur.robTail`. -/
def robAdd (e : RobEntry) (s : State) : Result :=
  if s.cur.robFull then raiseFatal (.internalAssert .robAddFull)
  else
    let s1 : State :=
      { s with nxt.rob := slotSet s.nxt.rob s.cur.robTail e, nxt.robTail := s.cur.robTail + 1#5 }
    .next (if e.kind = .registerWrite then aboutToWrite (e.dest.setWidth 5) s.cur.robTail s1 else s1)

/-- Write a result into a RoB slot and mark it ready (R196, R280). -/
def robResult (rob : Vector RobEntry 32) (i : Slot) (v : Word) : Vector RobEntry 32 :=
  slotSet rob i { slotGet rob i with value := v, ready := true }

/-- Mark a RoB slot ready (R277). -/
def robMarkReady (rob : Vector RobEntry 32) (i : Slot) : Vector RobEntry 32 :=
  slotSet rob i { slotGet rob i with ready := true }

/-! ### Load/store-queue ring (R34) -/

/-- Ring-index arithmetic `(i + 1) mod LSQ_SIZE` (R10, R34). -/
def lsqNext (c : Config) (i : Nat) : Nat := (i + 1) % c.lsqSize

def Bank.lsqEmpty (b : Bank) : Bool := b.lsqHead == b.lsqTail

def Bank.lsqFull (c : Config) (b : Bank) : Bool := lsqNext c b.lsqTail == b.lsqHead

/-- How far slot `i` lies behind the head of the queue. -/
def Bank.lsqAge (c : Config) (b : Bank) (i : Nat) : Nat := (i + c.lsqSize - b.lsqHead) % c.lsqSize

/-- The number of occupied slots. -/
def Bank.lsqCountOcc (c : Config) (b : Bank) : Nat := b.lsqAge c b.lsqTail

/-- Slot `i` lies between the cursors (R34). -/
def Bank.lsqOccupied (c : Config) (b : Bank) (i : Nat) : Bool :=
  decide (i < c.lsqSize) && decide (b.lsqAge c i < b.lsqCountOcc c)

/-- The entry in slot `i`. -/
def Bank.lsqAt (b : Bank) (i : Nat) : LsqEntry := b.lsq.getD i LsqEntry.reset

/-- The entry in reservation-station slot `k`. -/
def Bank.rsAt (b : Bank) (k : Nat) : RsEntry := b.rs.getD k RsEntry.reset

end Sys2Proof.Machine
end

