-- ==== Sys2Proof/Machine/Operands.lean ====
section
/-! DEFINITION. Operand forms: the immediates as 32-bit values (R100 to R105), and source registers resolved
through the alias table and the reorder buffer (R156), with the entry fields built from the outcome (R193, R273). -/

namespace Sys2Proof.Machine

/-! ### Immediates as 32-bit values -/

/-- `imm_I` and `imm_S`: sign-extended from 12 bits (R100, R101). -/
def immSext12 (imm : BitVec 12) : Word := imm.signExtend 32

/-- `imm_B`: sign-extended from 13 bits (R102). -/
def immSext13 (imm : BitVec 13) : Word := imm.signExtend 32

/-- `imm_J`: sign-extended from 21 bits (R104). -/
def immSext21 (imm : BitVec 21) : Word := imm.signExtend 32

/-- `imm_U = imm[31:12] ‖ 0^12` (R103). -/
def immUpper (imm : BitVec 20) : Word := imm ++ 0#12

/-- `shamt`, zero-extended from 5 bits (R105). -/
def shamtZext (shamt : BitVec 5) : Word := shamt.setWidth 32

/-! ### Source registers -/

/-- The outcome of resolving a source register: its value, or the RoB slot it waits for (R156). -/
inductive Operand
  | value (v : Word)
  | wait (q : Slot)
  deriving DecidableEq, Repr

/-- `resolve(r)`, "RAT-then-RoB lookup", from `cur` only (R156): no result of this cycle is forwarded (D35). -/
def resolve (s : State) (r : Reg) : Operand :=
  let e := slotGet s.cur.reg r
  if r = 0#5 then .value 0#32
  else if e.dirty = false then .value (s.cur.regRead r)
  else
    let p := slotGet s.cur.rob e.dep
    if p.ready then .value p.value else .wait e.dep

/-- The constraint flag an operand puts into an entry (R193, R273). -/
def Operand.constraint : Operand → Bool
  | .value _ => false
  | .wait _ => true

/-- The producer slot an operand puts into an entry; 0 when there is none (R193, R273). -/
def Operand.producer : Operand → Slot
  | .value _ => 0#5
  | .wait q => q

/-- The value an operand puts into an entry; 0 while it waits (R193, R273). -/
def Operand.valueOr0 : Operand → Word
  | .value v => v
  | .wait _ => 0#32

end Sys2Proof.Machine
end

