-- ==== Sys2Proof/Machine/Flags.lean ====
section
/-! DEFINITION. The hardware has no flags and no condition codes (R23): a compare writes 0 or 1 into a general
register or decides a branch. This file holds what stands in their place, the comparisons of R221 and their 0/1
result (R9). -/

namespace Sys2Proof.Machine

/-- A truth value in a 32-bit field: `0x00000001` or `0x00000000` (R9, R221). -/
def boolWord (b : Bool) : Word := if b then 1#32 else 0#32

/-- `s(a) < s(b)`, two's complement (R221). -/
def signedLess (a b : Word) : Bool := decide (a.toInt < b.toInt)

/-- `u(a) < u(b)` (R221). -/
def unsignedLess (a b : Word) : Bool := decide (a.toNat < b.toNat)

end Sys2Proof.Machine
end

