-- ==== Sys2Proof/Machine/Alu.lean ====
section
/-! DEFINITION. The functional units' pure function `Execute(op, a, b)` (R199) and the class each operation belongs
to (R191): spec/43_integer_computational.md R221 to R241, spec/44_branches.md R251 to R256. -/

namespace Sys2Proof.Machine

/-- The class of an operation, fixed by its mnemonic (R191). -/
def opClass : RsOp → FuClass
  | .add | .addi | .sub => .add
  | .sll | .slli | .srl | .srli | .sra | .srai => .shift
  | .slt | .slti | .sltu | .sltiu | .beq | .bne | .blt | .bge | .bltu | .bgeu => .setCmp
  | .xor | .xori | .or | .ori | .and | .andi => .logic

/-- The shift amount: the low five bits of the second operand (R222). -/
def shiftAmount (b : Word) : Nat := (b.extractLsb' 0 5).toNat

/-- `(a * 2^n) mod 2^32` (R229, R234). -/
def shiftLeft (a b : Word) : Word := a <<< shiftAmount b

/-- `floor(u(a) / 2^n)` (R230, R238). -/
def shiftRightLogical (a b : Word) : Word := a >>> shiftAmount b

/-- `floor(s(a) / 2^n)`: copies of `a[31]` enter at bit 31 (R231, R239). -/
def shiftRightArith (a b : Word) : Word := a.sshiftRight (shiftAmount b)

/-- `Execute(op, a, b)` for the 25 operations (R199). An immediate form computes what its register form does
(R192). -/
def execute (op : RsOp) (a b : Word) : Word :=
  match op with
  | .addi | .add => a + b                              -- R223, R232
  | .sub => a - b                                      -- R233
  | .slti | .slt => boolWord (signedLess a b)          -- R224, R235
  | .sltiu | .sltu => boolWord (unsignedLess a b)      -- R225, R236
  | .xori | .xor => a ^^^ b                            -- R226, R237
  | .ori | .or => a ||| b                              -- R227, R240
  | .andi | .and => a &&& b                            -- R228, R241
  | .slli | .sll => shiftLeft a b                      -- R229, R234
  | .srli | .srl => shiftRightLogical a b              -- R230, R238
  | .srai | .sra => shiftRightArith a b                -- R231, R239
  | .beq => boolWord (a == b)                          -- R251
  | .bne => boolWord (a != b)                          -- R252
  | .blt => boolWord (signedLess a b)                  -- R253
  | .bge => boolWord (!signedLess a b)                 -- R254
  | .bltu => boolWord (unsignedLess a b)               -- R255
  | .bgeu => boolWord (!unsignedLess a b)              -- R256

end Sys2Proof.Machine
end

