-- ==== Sys2Proof/Machine/Predictor.lean ====
section
/-! DEFINITION. The two-level branch predictor: `Predict`, `Update`, `GetAccuracy` (spec/48_branch_predictor.md). -/

namespace Sys2Proof.Machine

/-- The bucket index: the low 12 bits of the byte address (R355). -/
def bucketIndex (a : Word) : Nat := (a.extractLsb' 0 12).toNat

/-- Bucket `b` of the table (R37). -/
def Predictor.bucket (p : Predictor) (b : Nat) : Bucket := sparseGet Bucket.reset p b

/-- `pattern[h]` (R355). -/
def Bucket.look (b : Bucket) (h : BitVec 4) : Bool := b.pattern[h.toNat]'(h.isLt)

/-- The bucket after an outcome: `pattern[h] <- actual`, the outcome shifted into the history's low bit, the oldest
bit discarded (R357). -/
def Bucket.train (b : Bucket) (actual : Bool) : Bucket where
  hist := b.hist.extractLsb' 0 3 ++ BitVec.ofBool actual
  pattern := b.pattern.set b.hist.toNat actual b.hist.isLt

/-- The prediction a bucket gives: `pattern[hist]` (R356). -/
def Bucket.prediction (b : Bucket) : Bool := b.look b.hist

/-- `Predict(a)`, from `cur` (R356). -/
def predict (s : State) (a : Word) : Bool := (s.cur.pred.bucket (bucketIndex a)).prediction

/-- `Update(a, actual)`: count, overwrite the pattern entry, shift the history (R357). The count compares the
prediction looked up now, not the one the fetch unit used (R358). -/
def predUpdate (a : Word) (actual : Bool) (s : State) : State :=
  let b := s.cur.pred.bucket (bucketIndex a)
  let s1 : State :=
    if b.prediction = actual then { s with nxt.predCorrect := s.cur.predCorrect + 1 }
    else { s with nxt.predIncorrect := s.cur.predIncorrect + 1 }
  { s1 with nxt.pred := sparsePut Bucket.reset s.nxt.pred (bucketIndex a) (b.train actual) }

/-- The outcomes of `GetAccuracy` (R359). -/
inductive Accuracy
  | notApplicable
  /-- The rational `correct / total`, `total` > 0. -/
  | ratio (r : Rat)
  deriving DecidableEq, Repr

/-- `GetAccuracy` (R359). -/
def getAccuracy (s : State) : Accuracy :=
  let total := s.cur.predCorrect + s.cur.predIncorrect
  if total = 0 then .notApplicable else .ratio ((s.cur.predCorrect : Rat) / (total : Rat))

end Sys2Proof.Machine
end

