-- ==== Sys2Proof/Machine/Dispatching.lean ====
section
/-! DEFINITION. The shared operations of the dispatch part of the fetch step (spec/41_fetch_decode_dispatch.md): what
the fetch unit does, in the cycle it fetches an instruction, for each class of instruction. The 38 meanings of
ControlFlow.lean, Branches.lean, LoadStore.lean and Computational.lean are written over them. Each reads `cur`
only and stages into `nxt` (R131). -/

namespace Sys2Proof.Machine

/-- Stage the fetch unit's next pc (R10). -/
def setNextPc (a : Word) (s : State) : State := { s with nxt.pc := a }

/-- A RegisterWrite entry: `ready` and `value` as given, the fields of other kinds 0 (R31). -/
def regWriteEntry (rd : Reg) (ready : Bool) (value : Word) : RobEntry :=
  { ready := ready, predicted := false, kind := .registerWrite, dest := rd.setWidth 32, value := value,
    baddr := 0#32 }

/-- The End entry, ready at allocation (R160, R31). -/
def endEntry : RobEntry :=
  { ready := true, predicted := false, kind := .endProg, dest := 0#32, value := 0#32, baddr := 0#32 }

/-- A store's MemoryWrite entry: `dest` is its own LSQ slot index (R172, R31). -/
def memWriteEntry (slot : Nat) : RobEntry :=
  { ready := false, predicted := false, kind := .memoryWrite, dest := BitVec.ofNat 32 slot, value := 0#32,
    baddr := 0#32 }

/-- A Branch entry: `dest` is the taken target, `baddr` the branch's own pc (R170, R31, D25). -/
def branchEntry (predicted : Bool) (target pc : Word) : RobEntry :=
  { ready := false, predicted := predicted, kind := .branch, dest := target, value := 0#32, baddr := pc }

/-- `entry(op, rob, operand1, operand2)` (R193). -/
def rsEntry (op : RsOp) (rob : Slot) (o1 o2 : Operand) : RsEntry :=
  { empty := false, busy := o1.constraint || o2.constraint, issued := false, op := op,
    q1c := o1.constraint, q1 := o1.producer, v1 := o1.valueOr0,
    q2c := o2.constraint, q2 := o2.producer, v2 := o2.valueOr0, rob := rob }

/-- The lowest-numbered slot that is empty (R194). -/
def freeRsSlot (rs : List RsEntry) : Option Nat := rs.findIdx? (·.empty)

/-- Push an entry into a reservation-station slot (R170, R173). -/
def rsPush (k : Nat) (e : RsEntry) (s : State) : State := { s with nxt.rs := s.nxt.rs.set k e }

/-- A load's LSQ entry: ready at once when its base is resolved (R273, R275, D16). -/
def loadEntry (type : LsqType) (rob : Slot) (base : Operand) (offset : Word) : LsqEntry :=
  { ready := !base.constraint, basec := base.constraint, baseq := base.producer, valuec := false,
    valueq := 0#5, type := type, base := base.valueOr0, offset := offset, value := 0#32, rob := rob }

/-- A store's LSQ entry: not ready until it commits (R273, R278). -/
def storeEntry (type : LsqType) (rob : Slot) (base value : Operand) (offset : Word) : LsqEntry :=
  { ready := false, basec := base.constraint, baseq := base.producer, valuec := value.constraint,
    valueq := value.producer, type := type, base := base.valueOr0, offset := offset,
    value := value.valueOr0, rob := rob }

/-- Push an entry at the tail of the load/store queue (R171, R172). -/
def lsqPush (e : LsqEntry) (s : State) : State :=
  { s with nxt.lsq := s.nxt.lsq.set s.cur.lsqTail e, nxt.lsqTail := lsqNext s.cfg s.cur.lsqTail }

/-- An instruction resolved in the fetch cycle that writes a register: a ready RegisterWrite entry and the next pc
(R161, R167). -/
def dispatchReady (rd : Reg) (value nextPc : Word) (s : State) : Result :=
  bindNext (robAdd (regWriteEntry rd true value) s) fun s1 => .next (setNextPc nextPc s1)

/-- Dispatch of a computational instruction (R173); with no empty RS entry the fetch unit does nothing (R155). -/
def dispatchComputational (op : RsOp) (rd : Reg) (o1 o2 : Operand) (s : State) : Result :=
  match freeRsSlot s.cur.rs with
  | none => .next s
  | some k =>
    bindNext (robAdd (regWriteEntry rd false 0#32) s) fun s1 =>
      .next (setNextPc (s.cur.pc + 4#32) (rsPush k (rsEntry op s.cur.robTail o1 o2) s1))

/-- Dispatch of a conditional branch along its predicted path (R170); with no empty RS entry the fetch unit does
nothing (R155). -/
def dispatchBranch (op : RsOp) (rs1 rs2 : Reg) (offset : Word) (s : State) : Result :=
  match freeRsSlot s.cur.rs with
  | none => .next s
  | some k =>
    let p := predict s s.cur.pc
    let target := s.cur.pc + offset
    bindNext (robAdd (branchEntry p target s.cur.pc) s) fun s1 =>
      .next (setNextPc (if p then target else s.cur.pc + 4#32)
        (rsPush k (rsEntry op s.cur.robTail (resolve s rs1) (resolve s rs2)) s1))

/-- Dispatch of a load (R171); with the queue full the fetch unit does nothing (R155). -/
def dispatchLoad (type : LsqType) (rd rs1 : Reg) (offset : Word) (s : State) : Result :=
  if s.cur.lsqFull s.cfg then .next s
  else
    bindNext (robAdd (regWriteEntry rd false 0#32) s) fun s1 =>
      .next (setNextPc (s.cur.pc + 4#32)
        (lsqPush (loadEntry type s.cur.robTail (resolve s rs1) offset) s1))

/-- Dispatch of a store (R172): no register is renamed; with the queue full the fetch unit does nothing (R155). -/
def dispatchStore (type : LsqType) (rs1 rs2 : Reg) (offset : Word) (s : State) : Result :=
  if s.cur.lsqFull s.cfg then .next s
  else
    bindNext (robAdd (memWriteEntry s.cur.lsqTail) s) fun s1 =>
      .next (setNextPc (s.cur.pc + 4#32)
        (lsqPush (storeEntry type s.cur.robTail (resolve s rs1) (resolve s rs2) offset) s1))

/-- The target of a JALR: the sum with bit 0 cleared (R152, R168, D8). -/
def jalrTarget (v imm : Word) : Word := (v + imm) &&& 0xFFFFFFFE#32

end Sys2Proof.Machine
end

