-- ==== Sys2Proof/Machine/Lsq.lean ====
section
/-! DEFINITION. The LSQ step (spec/45_load_store_queue.md R274): operand wake-up (R276), the readiness report of
stores (R277) and the memory pipeline (R280). -/

namespace Sys2Proof.Machine

/-- The loads among the types (R272). -/
def LsqType.isLoad : LsqType → Bool
  | .lb | .lh | .lw | .lbu | .lhu => true
  | .sb | .sh | .sw => false

def LsqType.isStore (t : LsqType) : Bool := !t.isLoad

/-- The number of bytes of an access (R272). -/
def LsqType.bytes : LsqType → Nat
  | .lb | .lbu | .sb => 1
  | .lh | .lhu | .sh => 2
  | .lw | .sw => 4

/-- The effective address `base + offset` modulo 2^32 (R279). -/
def LsqEntry.addr (e : LsqEntry) : Word := e.base + e.offset

/-- A store that has committed: certain to execute (R278). -/
def LsqEntry.committedStore (e : LsqEntry) : Bool := e.type.isStore && e.ready

/-- A store with base and value resolved that has not committed reports to the RoB (R277, D15). -/
def LsqEntry.reports (e : LsqEntry) : Bool := e.type.isStore && !e.basec && !e.valuec && !e.ready

/-- Wake-up of one occupied slot: `e` current, `n` next (R276). A load becomes ready with its base (R275). -/
def wakeLsq (rob : Vector RobEntry 32) (e n : LsqEntry) : LsqEntry :=
  let n1 :=
    if e.basec && (slotGet rob e.baseq).ready then
      { n with base := (slotGet rob e.baseq).value, basec := false, ready := e.type.isLoad || n.ready }
    else n
  if e.valuec && (slotGet rob e.valueq).ready then
    { n1 with value := (slotGet rob e.valueq).value, valuec := false }
  else n1

/-- The RoB with the entry of every reporting store marked ready (R277). -/
def reportStores (c : Config) (b : Bank) (rob : Vector RobEntry 32) : Vector RobEntry 32 :=
  (List.range c.lsqSize).foldl
    (fun r i => if b.lsqOccupied c i && (b.lsqAt i).reports then robMarkReady r (b.lsqAt i).rob else r) rob

/-- Part (a) of the LSQ step: wake-up and report (R274). -/
def lsqWake (s : State) : State :=
  { s with
    nxt.lsq := s.nxt.lsq.mapIdx fun i n =>
      if s.cur.lsqOccupied s.cfg i then wakeLsq s.cur.rob (s.cur.lsqAt i) n else n
    nxt.rob := reportStores s.cfg s.cur s.nxt.rob }

/-- A load's data goes to its RoB entry (R280, D29). -/
def deliverLoad (slot : Slot) (v : Word) (s : State) : State :=
  { s with nxt.rob := robResult s.nxt.rob slot v }

/-- A store writes memory in place (R280, R75). -/
def storeEffect (e : LsqEntry) (m : Memory) : Memory := memWrite m e.addr e.type.bytes e.value

/-- The access of the head entry, with the accessor and extension of its type (R272, R280, R61). -/
def performAccess (e : LsqEntry) (s : State) : State :=
  match e.type with
  | .lb => deliverLoad e.rob ((memRead1 s.mem e.addr).signExtend 32) s
  | .lh => deliverLoad e.rob ((memRead2 s.mem e.addr).signExtend 32) s
  | .lw => deliverLoad e.rob (memRead4 s.mem e.addr) s
  | .lbu => deliverLoad e.rob ((memRead1 s.mem e.addr).setWidth 32) s
  | .lhu => deliverLoad e.rob ((memRead2 s.mem e.addr).setWidth 32) s
  | .sb | .sh | .sw => { s with mem := storeEffect e s.mem }

/-- The value the countdown starts from (R7 `MEM_COUNTDOWN`, R280, D14). -/
def memCountdown : BitVec 2 := 2#2

/-- Part (b) of the LSQ step: the memory pipeline (R280). Under a `MEM_SIZE` below 2^32 an access that touches a byte
at or beyond it is `Fatal(MemRange)` (R70). -/
def memPipeline (s : State) : Result :=
  if s.cur.lsqInflight then
    if s.cur.lsqCount != 0#2 then .next { s with nxt.lsqCount := s.cur.lsqCount - 1#2 }
    else
      let e := s.cur.lsqAt s.cur.lsqHead
      match outOfRange s.cfg e.addr e.type.bytes with
      | some a => raiseFatal (.memRange a)
      | none =>
        .next { performAccess e s with
          nxt.lsqHead := lsqNext s.cfg s.cur.lsqHead
          nxt.lsqInflight := false }
  else if !s.cur.lsqEmpty && (s.cur.lsqAt s.cur.lsqHead).ready then
    .next { s with nxt.lsqInflight := true, nxt.lsqCount := memCountdown }
  else .next s

/-- The LSQ step (R274). -/
def lsqStep (s : State) : Result := memPipeline (lsqWake s)

/-- The slots from the head to the last occupied one, in queue order (R34). -/
def lsqOrder (c : Config) (b : Bank) : List Nat :=
  (List.range (b.lsqCountOcc c)).map fun j => (b.lsqHead + j) % c.lsqSize

/-- `final_memory` (R321): the array with every store left in the queue applied in queue order. -/
def finalMemory (s : State) : Memory :=
  (lsqOrder s.cfg s.cur).foldl (fun m i => storeEffect (s.cur.lsqAt i) m) s.mem

end Sys2Proof.Machine
end

