-- ==== Sys2Proof/Machine/Commit.lean ====
section
/-! DEFINITION. The commit step (spec/46_reorder_buffer_commit.md): `TryCommit` with its four kinds (R315 to R321), the
halt, and the misprediction flush (R322, R283), the core's only recovery mechanism. -/

namespace Sys2Proof.Machine

/-- Pop the head (R315): the cursor advances by exactly one (R316). -/
def robPop (s : State) : State := { s with nxt.robHead := s.cur.robHead + 1#5 }

/-- Commit of a RegisterWrite entry `e` in slot `h` (R317): the only way a general register changes. -/
def commitRegister (e : RobEntry) (s : State) : Result :=
  .next (robPop (regWrite (e.dest.setWidth 5) e.value s.cur.robHead s))

/-- The LSQ slot a MemoryWrite entry names holds a store that has not committed (R318, R371). -/
def uncommittedStoreAt (s : State) (i : Nat) : Bool :=
  s.cur.lsqOccupied s.cfg i && (s.cur.lsqAt i).type.isStore && !(s.cur.lsqAt i).ready

/-- Commit of a MemoryWrite entry (R318): its LSQ entry is authorised; memory is not written here. -/
def commitStore (e : RobEntry) (s : State) : Result :=
  let i := e.dest.toNat
  if uncommittedStoreAt s i then
    .next (robPop { s with nxt.lsq := s.nxt.lsq.set i { s.nxt.lsqAt i with ready := true } })
  else raiseFatal (.internalAssert .commitNotStore)

/-- The correct target of a branch entry: `dest` if taken, else `baddr + 4` (R257, D25). -/
def RobEntry.correctTarget (e : RobEntry) : Word :=
  if e.value != 0#32 then e.dest else e.baddr + 4#32

/-- From slot `i` on, the first slot that is the tail or is not a committed store (R283). `fuel` bounds the walk by
the ring's size. -/
def truncateFrom (c : Config) (b : Bank) : Nat → Nat → Nat
  | 0, i => i
  | fuel + 1, i =>
    if i = b.lsqTail then i
    else if (b.lsqAt i).committedStore then truncateFrom c b fuel (lsqNext c i)
    else i

/-- `ClearOnWrongPrediction` on the next copy (R283): committed stores survive, with the access in flight for one of
them. -/
def truncateLsq (c : Config) (b : Bank) : Bank :=
  let t := truncateFrom c b c.lsqSize b.lsqHead
  if b.lsqHead = t then { b with lsqTail := t, lsqInflight := false, lsqCount := 0#2 } else { b with lsqTail := t }

/-- What the misprediction flush stages in `nxt`, overriding the three earlier steps (R322, R323, R346, R203, D17,
D18): `h` is the branch's slot, `target` the correct target. -/
def flushBank (c : Config) (h : Slot) (target : Word) (b : Bank) : Bank :=
  truncateLsq c
    { b with
      pc := target
      fetchStopped := false
      jalrWait := { b.jalrWait with valid := false }
      rs := b.rs.map fun e => { e with empty := true }
      fu := FuArray.idle
      robHead := h + 1#5
      robTail := h + 1#5
      reg := slotMap (fun r => { r with dirty := false }) b.reg }

/-- The misprediction flush for the branch entry `e` at the head (R322). -/
def flushMispredicted (e : RobEntry) (s : State) : State :=
  { s with nxt := flushBank s.cfg s.cur.robHead e.correctTarget s.nxt }

/-- Commit of a Branch entry (R319): train the predictor; pop if the prediction was right, else flush. -/
def commitBranch (e : RobEntry) (s : State) : Result :=
  let actual := e.value != 0#32
  let s1 := predUpdate e.baddr actual s
  .next (if actual = e.predicted then robPop s1 else flushMispredicted e s1)

/-- Register a0 (R21, D28). -/
def a0 : Reg := 10#5

/-- Commit of the End entry (R321): `Halted` with the low byte of the committed a0. -/
def commitEnd (s : State) : Result :=
  .next { s with status := .halted ((s.cur.regRead a0).setWidth 8) }

/-- `TryCommit` (R315). -/
def commitStep (s : State) : Result :=
  if s.cur.robEmpty then .next s
  else
    let e := slotGet s.cur.rob s.cur.robHead
    if e.ready = false then .next s
    else
      match e.kind with
      | .registerWrite => commitRegister e s
      | .memoryWrite => commitStore e s
      | .branch => commitBranch e s
      | .endProg => commitEnd s

end Sys2Proof.Machine
end

