-- ==== Sys2Proof/Machine/Branches.lean ====
section
/-! DEFINITION. The meanings of the six conditional branches (spec/44_branches.md R250 to R259): each is dispatched
along its predicted path (R170), compared in a Set unit by `execute` (R251 to R256), and resolved at commit
(`commitBranch`, R319). -/

namespace Sys2Proof.Machine

/-- BEQ (R251): taken when `a = b`. -/
def execBeq (rs1 rs2 : Reg) (imm : BitVec 13) (s : State) : Result :=
  dispatchBranch .beq rs1 rs2 (immSext13 imm) s

/-- BNE (R252): taken when `a != b`. -/
def execBne (rs1 rs2 : Reg) (imm : BitVec 13) (s : State) : Result :=
  dispatchBranch .bne rs1 rs2 (immSext13 imm) s

/-- BLT (R253): taken when `s(a) < s(b)`. -/
def execBlt (rs1 rs2 : Reg) (imm : BitVec 13) (s : State) : Result :=
  dispatchBranch .blt rs1 rs2 (immSext13 imm) s

/-- BGE (R254): taken when `s(a) >= s(b)`. -/
def execBge (rs1 rs2 : Reg) (imm : BitVec 13) (s : State) : Result :=
  dispatchBranch .bge rs1 rs2 (immSext13 imm) s

/-- BLTU (R255): taken when `u(a) < u(b)`. -/
def execBltu (rs1 rs2 : Reg) (imm : BitVec 13) (s : State) : Result :=
  dispatchBranch .bltu rs1 rs2 (immSext13 imm) s

/-- BGEU (R256): taken when `u(a) >= u(b)`. -/
def execBgeu (rs1 rs2 : Reg) (imm : BitVec 13) (s : State) : Result :=
  dispatchBranch .bgeu rs1 rs2 (immSext13 imm) s

end Sys2Proof.Machine
end

