-- ==== Sys2Proof/Machine/Computational.lean ====
section
/-! DEFINITION. The meanings of the 19 integer computational instructions (spec/43_integer_computational.md R220 to
R241): each is dispatched to the reservation station (R173) with its operands resolved before its destination is
renamed (R177); what it computes is `execute` of its operation (R199). -/

namespace Sys2Proof.Machine

/-- ADDI (R223): operand 2 is `imm_I`. -/
def execAddi (rd rs1 : Reg) (imm : BitVec 12) (s : State) : Result :=
  dispatchComputational .addi rd (resolve s rs1) (.value (immSext12 imm)) s

/-- SLTI (R224): operand 2 is `imm_I`. -/
def execSlti (rd rs1 : Reg) (imm : BitVec 12) (s : State) : Result :=
  dispatchComputational .slti rd (resolve s rs1) (.value (immSext12 imm)) s

/-- SLTIU (R225): operand 2 is `imm_I`. -/
def execSltiu (rd rs1 : Reg) (imm : BitVec 12) (s : State) : Result :=
  dispatchComputational .sltiu rd (resolve s rs1) (.value (immSext12 imm)) s

/-- XORI (R226): operand 2 is `imm_I`. -/
def execXori (rd rs1 : Reg) (imm : BitVec 12) (s : State) : Result :=
  dispatchComputational .xori rd (resolve s rs1) (.value (immSext12 imm)) s

/-- ORI (R227): operand 2 is `imm_I`. -/
def execOri (rd rs1 : Reg) (imm : BitVec 12) (s : State) : Result :=
  dispatchComputational .ori rd (resolve s rs1) (.value (immSext12 imm)) s

/-- ANDI (R228): operand 2 is `imm_I`. -/
def execAndi (rd rs1 : Reg) (imm : BitVec 12) (s : State) : Result :=
  dispatchComputational .andi rd (resolve s rs1) (.value (immSext12 imm)) s

/-- SLLI (R229): operand 2 is `shamt` (R105). -/
def execSlli (rd rs1 : Reg) (shamt : BitVec 5) (s : State) : Result :=
  dispatchComputational .slli rd (resolve s rs1) (.value (shamtZext shamt)) s

/-- SRLI (R230): operand 2 is `shamt` (R105). -/
def execSrli (rd rs1 : Reg) (shamt : BitVec 5) (s : State) : Result :=
  dispatchComputational .srli rd (resolve s rs1) (.value (shamtZext shamt)) s

/-- SRAI (R231): operand 2 is `shamt` (R105). -/
def execSrai (rd rs1 : Reg) (shamt : BitVec 5) (s : State) : Result :=
  dispatchComputational .srai rd (resolve s rs1) (.value (shamtZext shamt)) s

/-- ADD (R232). -/
def execAdd (rd rs1 rs2 : Reg) (s : State) : Result :=
  dispatchComputational .add rd (resolve s rs1) (resolve s rs2) s

/-- SUB (R233). -/
def execSub (rd rs1 rs2 : Reg) (s : State) : Result :=
  dispatchComputational .sub rd (resolve s rs1) (resolve s rs2) s

/-- SLL (R234). -/
def execSll (rd rs1 rs2 : Reg) (s : State) : Result :=
  dispatchComputational .sll rd (resolve s rs1) (resolve s rs2) s

/-- SLT (R235). -/
def execSlt (rd rs1 rs2 : Reg) (s : State) : Result :=
  dispatchComputational .slt rd (resolve s rs1) (resolve s rs2) s

/-- SLTU (R236). -/
def execSltu (rd rs1 rs2 : Reg) (s : State) : Result :=
  dispatchComputational .sltu rd (resolve s rs1) (resolve s rs2) s

/-- XOR (R237). -/
def execXor (rd rs1 rs2 : Reg) (s : State) : Result :=
  dispatchComputational .xor rd (resolve s rs1) (resolve s rs2) s

/-- SRL (R238). -/
def execSrl (rd rs1 rs2 : Reg) (s : State) : Result :=
  dispatchComputational .srl rd (resolve s rs1) (resolve s rs2) s

/-- SRA (R239). -/
def execSra (rd rs1 rs2 : Reg) (s : State) : Result :=
  dispatchComputational .sra rd (resolve s rs1) (resolve s rs2) s

/-- OR (R240). -/
def execOr (rd rs1 rs2 : Reg) (s : State) : Result :=
  dispatchComputational .or rd (resolve s rs1) (resolve s rs2) s

/-- AND (R241). -/
def execAnd (rd rs1 rs2 : Reg) (s : State) : Result :=
  dispatchComputational .and rd (resolve s rs1) (resolve s rs2) s

end Sys2Proof.Machine
end

