-- ==== Sys2Proof/Machine/ControlFlow.lean ====
section
/-! DEFINITION. The meanings of the five instructions resolved in the fetch unit: END, LUI, AUIPC, JAL, JALR
(spec/41_fetch_decode_dispatch.md R160 to R168). -/

namespace Sys2Proof.Machine

/-- END (R160): allocate a ready End entry and stop fetching; the pc stays at the END word (D26). The halt itself is
taken when the entry commits (`commitEnd`, R321). -/
def execEnd (s : State) : Result :=
  bindNext (robAdd endEntry s) fun s1 => .next { s1 with nxt.fetchStopped := true }

/-- LUI (R161). -/
def execLui (rd : Reg) (imm : BitVec 20) (s : State) : Result :=
  dispatchReady rd (immUpper imm) (s.cur.pc + 4#32) s

/-- AUIPC in the three modes of `AUIPC_MODE` (R166, D7, conflict C1). In the two modes without a write it allocates
no RoB entry and changes only the pc. -/
def execAuipc (rd : Reg) (imm : BitVec 20) (s : State) : Result :=
  match s.cfg.auipcMode with
  | .pcPlusImmNoWrite => .next (setNextPc (s.cur.pc + immUpper imm) s)
  | .pcPlus4NoWrite => .next (setNextPc (s.cur.pc + 4#32) s)
  | .rv32i => dispatchReady rd (s.cur.pc + immUpper imm) (s.cur.pc + 4#32) s

/-- JAL (R167): the link value is `pc + 4`; the fetch unit follows the jump in this cycle. -/
def execJal (rd : Reg) (imm : BitVec 21) (s : State) : Result :=
  dispatchReady rd (s.cur.pc + 4#32) (s.cur.pc + immSext21 imm) s

/-- JALR (R168): the link entry is allocated whether or not the target is known; an unready base starts the wait of
R152, with the pc unchanged. The base is resolved before `rd` is renamed (R177). -/
def execJalr (rd rs1 : Reg) (imm : BitVec 12) (s : State) : Result :=
  bindNext (robAdd (regWriteEntry rd true (s.cur.pc + 4#32)) s) fun s1 =>
    match resolve s rs1 with
    | .value v => .next (setNextPc (jalrTarget v (immSext12 imm)) s1)
    | .wait q => .next { s1 with nxt.jalrWait := ⟨true, q, immSext12 imm⟩ }

end Sys2Proof.Machine
end

