-- ==== Sys2Proof/Machine/LoadStore.lean ====
section
/-! DEFINITION. The meanings of the five loads and three stores (spec/45_load_store_queue.md R285 to R292): each
enters the load/store queue (R171, R172); its access is performed by the LSQ step with the accessor of its type
(`performAccess`, R272, R280). -/

namespace Sys2Proof.Machine

/-- LB (R285): reads a sign-extended byte at `x[rs1] + imm_I`. -/
def execLb (rd rs1 : Reg) (imm : BitVec 12) (s : State) : Result :=
  dispatchLoad .lb rd rs1 (immSext12 imm) s

/-- LH (R286): reads a sign-extended half-word at `x[rs1] + imm_I`. -/
def execLh (rd rs1 : Reg) (imm : BitVec 12) (s : State) : Result :=
  dispatchLoad .lh rd rs1 (immSext12 imm) s

/-- LW (R287): reads a word at `x[rs1] + imm_I`. -/
def execLw (rd rs1 : Reg) (imm : BitVec 12) (s : State) : Result :=
  dispatchLoad .lw rd rs1 (immSext12 imm) s

/-- LBU (R288): reads a zero-extended byte at `x[rs1] + imm_I`. -/
def execLbu (rd rs1 : Reg) (imm : BitVec 12) (s : State) : Result :=
  dispatchLoad .lbu rd rs1 (immSext12 imm) s

/-- LHU (R289): reads a zero-extended half-word at `x[rs1] + imm_I`. -/
def execLhu (rd rs1 : Reg) (imm : BitVec 12) (s : State) : Result :=
  dispatchLoad .lhu rd rs1 (immSext12 imm) s

/-- SB (R290): stores the low byte of `x[rs2]` at `x[rs1] + imm_S`. -/
def execSb (rs1 rs2 : Reg) (imm : BitVec 12) (s : State) : Result :=
  dispatchStore .sb rs1 rs2 (immSext12 imm) s

/-- SH (R291): stores the low half-word of `x[rs2]` at `x[rs1] + imm_S`. -/
def execSh (rs1 rs2 : Reg) (imm : BitVec 12) (s : State) : Result :=
  dispatchStore .sh rs1 rs2 (immSext12 imm) s

/-- SW (R292): stores all 32 bits of `x[rs2]` at `x[rs1] + imm_S`. -/
def execSw (rs1 rs2 : Reg) (imm : BitVec 12) (s : State) : Result :=
  dispatchStore .sw rs1 rs2 (immSext12 imm) s

end Sys2Proof.Machine
end

