-- ==== Sys2Proof/Machine/Fetch.lean ====
section
/-! DEFINITION. The fetch step (spec/41_fetch_decode_dispatch.md R150 to R154): what the fetch unit does in a cycle,
ending in the meaning `exec i` of the instruction it has fetched. -/

namespace Sys2Proof.Machine

/-- `ReadInstruction(pc)`: the four bytes at the current pc, at any alignment (R61, R66, R153). -/
def fetchWord (s : State) : Word := memRead4 s.mem s.cur.pc

/-- A pending JALR: resolved when its producer is ready in `cur` (R152). -/
def resolveJalr (s : State) : State :=
  let p := slotGet s.cur.rob s.cur.jalrWait.q
  if p.ready then
    { s with
      nxt.pc := jalrTarget p.value s.cur.jalrWait.imm
      nxt.jalrWait := { s.nxt.jalrWait with valid := false } }
  else s

/-- Fetch, decode and dispatch the word at the pc (R150 item 4, R153, R154). -/
def fetchDispatch (s : State) : Result :=
  match outOfRange s.cfg s.cur.pc 4 with
  | some a => raiseFatal (.memRange a)
  | none =>
    match decode s.cfg.endWord (fetchWord s) with
    | .ok i => exec i s
    | .error _ => raiseFatal (.decodeError (fetchWord s))

/-- The fetch/decode/dispatch step (R150). -/
def fetchStep (s : State) : Result :=
  if s.cur.fetchStopped then .next s
  else if s.cur.jalrWait.valid then .next (resolveJalr s)
  else if s.cur.robFull then .next s
  else fetchDispatch s

end Sys2Proof.Machine
end

