-- ==== Sys2Proof/Machine/Station.lean ====
section
/-! DEFINITION. The RS step (spec/42_reservation_station_alu.md R195): harvest of finished units (R196), issue to free
units in scan order (R197), operand wake-up (R198). Each part reads `cur` and writes `nxt`. -/

namespace Sys2Proof.Machine

/-! ### The unit array -/

def FuArray.pair (a : FuArray) : FuClass → FuPair
  | .add => a.add
  | .shift => a.shift
  | .setCmp => a.setCmp
  | .logic => a.logic

def FuPair.unit (p : FuPair) : FuInst → Fu
  | .u0 => p.u0
  | .u1 => p.u1

/-- `fu[c][u]` (R33). -/
def FuArray.unit (a : FuArray) (c : FuClass) (u : FuInst) : Fu := (a.pair c).unit u

def FuPair.put (p : FuPair) (u : FuInst) (f : Fu) : FuPair :=
  match u with
  | .u0 => { p with u0 := f }
  | .u1 => { p with u1 := f }

def FuArray.put (a : FuArray) (c : FuClass) (u : FuInst) (f : Fu) : FuArray :=
  match c with
  | .add => { a with add := a.add.put u f }
  | .shift => { a with shift := a.shift.put u f }
  | .setCmp => { a with setCmp := a.setCmp.put u f }
  | .logic => { a with logic := a.logic.put u f }

/-- The eight units. -/
def FuArray.units (a : FuArray) : List Fu :=
  [a.add.u0, a.add.u1, a.shift.u0, a.shift.u1, a.setCmp.u0, a.setCmp.u1, a.logic.u0, a.logic.u1]

/-! ### Harvest (R196) -/

/-- Every finished unit writes its result into its RoB slot and marks it ready (R196); all in one cycle (D31). -/
def harvestRob (fu : FuArray) (rob : Vector RobEntry 32) : Vector RobEntry 32 :=
  fu.units.foldl (fun r f => if f.finished then robResult r f.index f.result else r) rob

/-- A finished unit goes idle; another keeps its next copy (R196). -/
def idleIfFinished (cur nxt : Fu) : Fu := if cur.finished then Fu.idle else nxt

def harvestFu (cur nxt : FuArray) : FuArray where
  add := ⟨idleIfFinished cur.add.u0 nxt.add.u0, idleIfFinished cur.add.u1 nxt.add.u1⟩
  shift := ⟨idleIfFinished cur.shift.u0 nxt.shift.u0, idleIfFinished cur.shift.u1 nxt.shift.u1⟩
  setCmp := ⟨idleIfFinished cur.setCmp.u0 nxt.setCmp.u0, idleIfFinished cur.setCmp.u1 nxt.setCmp.u1⟩
  logic := ⟨idleIfFinished cur.logic.u0 nxt.logic.u0, idleIfFinished cur.logic.u1 nxt.logic.u1⟩

/-- The entry's result is harvested in this cycle, so its slot is freed (R196). -/
def RsEntry.harvested (e : RsEntry) (fu : FuArray) : Bool :=
  !e.empty && e.issued && fu.units.any fun f => f.finished && f.index == e.rob

/-! ### Issue (R197) -/

/-- Non-empty, not busy, not issued: the entry may be offered to a unit (R197, D11). -/
def RsEntry.issuable (e : RsEntry) : Bool := !e.empty && !e.busy && !e.issued

/-- The first available unit of class `c`, unit 0 before unit 1 (R197, D12). -/
def FuArray.available (a : FuArray) (c : FuClass) : Option FuInst :=
  if (a.unit c .u0).busy = false then some .u0
  else if (a.unit c .u1).busy = false then some .u1
  else none

/-- Mark a unit as taken by an entry scanned earlier in this cycle (R197). -/
def FuArray.take (a : FuArray) (c : FuClass) (u : FuInst) : FuArray :=
  a.put c u { a.unit c u with busy := true }

/-- Which unit, if any, each slot's entry is granted, scanning slots upward (R197); `a` holds the units still busy
or already taken. -/
def issueGrants (a : FuArray) : List RsEntry → List (Option FuInst)
  | [] => []
  | e :: es =>
    if e.issuable then
      match a.available (opClass e.op) with
      | some u => some u :: issueGrants (a.take (opClass e.op) u) es
      | none => none :: issueGrants a es
    else none :: issueGrants a es

/-- A unit that has accepted the entry's operation (R197). -/
def acceptedFu (e : RsEntry) : Fu :=
  { busy := true, finished := true, result := execute e.op e.v1 e.v2, index := e.rob }

/-- Every granted unit accepts its entry's operation (R197). -/
def acceptAll (fu : FuArray) : List RsEntry → List (Option FuInst) → FuArray
  | e :: es, some u :: gs => acceptAll (fu.put (opClass e.op) u (acceptedFu e)) es gs
  | _ :: es, none :: gs => acceptAll fu es gs
  | _, _ => fu

/-! ### Wake-up (R198) and the step -/

/-- Copy in the value of each awaited producer that is ready in `cur`, and recompute `busy` (R198): `e` is the
current entry, `n` its next copy. -/
def wakeRs (rob : Vector RobEntry 32) (e n : RsEntry) : RsEntry :=
  let n1 := if e.q1c && (slotGet rob e.q1).ready then { n with v1 := (slotGet rob e.q1).value, q1c := false } else n
  let n2 := if e.q2c && (slotGet rob e.q2).ready then { n1 with v2 := (slotGet rob e.q2).value, q2c := false } else n1
  { n2 with busy := n2.q1c || n2.q2c }

/-- What the RS step makes of one slot: `e` current, `n` next. A slot empty in `cur` is left to the fetch step
(R133). -/
def rsSlotStep (b : Bank) (granted : Bool) (e n : RsEntry) : RsEntry :=
  if e.empty then n
  else if e.harvested b.fu then { n with empty := true }
  else
    let w := wakeRs b.rob e n
    if granted then { w with issued := true } else w

/-- The RS step (R195). -/
def rsStep (s : State) : State :=
  let grants := issueGrants s.cur.fu s.cur.rs
  { s with
    nxt.rob := harvestRob s.cur.fu s.nxt.rob
    nxt.fu := acceptAll (harvestFu s.cur.fu s.nxt.fu) s.cur.rs grants
    nxt.rs := s.nxt.rs.mapIdx fun k n => rsSlotStep s.cur (grants.getD k none).isSome (s.cur.rsAt k) n }

end Sys2Proof.Machine
end

