-- ==== Sys2Proof/Machine/Cycle.lean ====
section
/-! DEFINITION. The cycle orchestrator (spec/40_cycle_orchestrator.md): the four unit steps in their fixed order, then
the publish (R130), and how a run ends (R135). -/

namespace Sys2Proof.Machine

/-- At the start of phase 1, `nxt = cur` (R131). -/
def beginCycle (s : State) : State := { s with nxt := s.cur }

/-- Phase 1: LSQ step, fetch step, RS step, commit step, in this order (R130). -/
def computePhase (s : State) : Result :=
  bindNext (bindNext (lsqStep (beginCycle s)) fetchStep) fun s1 => commitStep (rsStep s1)

/-- Phase 2, the publish: every staged value becomes current and the clock advances by one (R130, R131). -/
def publish (s : State) : State :=
  let b := { s.nxt with clock := s.cur.clock + 1 }
  { s with cur := b, nxt := b }

/-- End of a cycle: published while the status is Running; after a halt nothing staged is published and the clock
does not advance, but a memory write of the LSQ step stands (R135). -/
def endCycle (s : State) : State :=
  match s.status with
  | .running => publish s
  | .halted _ | .fatal _ => { s with nxt := s.cur }

/-- One clock cycle (R130). `Halted` and `Fatal` are terminal: no further cycle is taken (R27). -/
def cycle (s : State) : Result :=
  match s.status with
  | .running => bindNext (computePhase s) fun s1 => .next (endCycle s1)
  | .halted code => .fault (.halted code)
  | .fatal reason => .fault (.fatal reason)

end Sys2Proof.Machine
end

