-- ==== Sys2Proof/Machine/HostPort.lean ====
section
/-! DEFINITION. What the host does around a run (spec/70_reset_and_hazards.md R390, R391, R396 to R399): load memory,
reset, read the result. It does nothing during a run. -/

namespace Sys2Proof.Machine

/-- Load a memory image, a list of (address, byte), the later entries last (R397; addresses are 32 bits). -/
def State.loadImage (image : List (Word × Byte)) (s : State) : State :=
  { s with mem := image.foldl (fun m c => writeByte m c.1 c.2) s.mem }

/-- Reset, in any state: every field at its reset value, memory unchanged (R390, R391). -/
def State.applyReset (s : State) : State := { State.resetWith s.cfg with mem := s.mem }

/-- The observable result of a run: the exit code of a halted machine, none otherwise (R398). -/
def State.result (s : State) : Option (BitVec 8) :=
  match s.status with
  | .halted code => some code
  | .running | .fatal _ => none

/-- Store a 32-bit word at address `a` as the host's loader lays it out, least significant byte first (R397, R62). -/
def State.withWordAt (s : State) (a w : Word) : State := { s with mem := memWrite s.mem a 4 w }

end Sys2Proof.Machine
end

