-- ==== Sys2Proof/Machine/Sequential.lean ====
section
/-! DEFINITION. The reference interpreter of the sequential-equivalence property (R405) with the line "Architectural
effect" of every instruction rule (R11, R161, R166 to R168, R220, R257, R285 to R292). It is not what the hardware
steps through; it says what a program's instructions have done once they have committed. -/

namespace Sys2Proof.Machine

/-- The interpreter's state: `x[0..31]`, `pc`, memory (R405). -/
structure Arch where
  x : Vector Word 32
  pc : Word
  mem : Memory
  deriving DecidableEq, Repr

/-- `x[i]`, with `x[0]` always 0 (R10). -/
def Arch.read (a : Arch) (i : Reg) : Word := if i = 0#5 then 0#32 else slotGet a.x i

/-- `x[i] <- v`; a write to `x[0]` is discarded (R10). -/
def Arch.write (a : Arch) (i : Reg) (v : Word) : Arch := if i = 0#5 then a else { a with x := slotSet a.x i v }

/-- `pc <- pc + 4`. -/
def Arch.advance (a : Arch) : Arch := { a with pc := a.pc + 4#32 }

/-- `x[rd] <- Execute(op, u, v); pc <- pc + 4` (R220). -/
def Arch.compute (a : Arch) (op : RsOp) (rd : Reg) (u v : Word) : Arch := (a.write rd (execute op u v)).advance

/-- `if cond then pc <- pc + imm_B else pc <- pc + 4` (R257). -/
def Arch.branch (a : Arch) (op : RsOp) (rs1 rs2 : Reg) (imm : BitVec 13) : Arch :=
  if execute op (a.read rs1) (a.read rs2) = 1#32 then { a with pc := a.pc + immSext13 imm } else a.advance

/-- The address `x[rs1] + imm` of a load or store (R285 to R292). -/
def Arch.addr (a : Arch) (rs1 : Reg) (imm : BitVec 12) : Word := a.read rs1 + immSext12 imm

/-- The architectural effect of an instruction (R405); `mode` is `AUIPC_MODE`. END has none here: the interpreter
stops on it. -/
def archEffect (mode : AuipcMode) (i : Instr) (a : Arch) : Arch :=
  match i with
  | .endProg => a
  | .lui rd imm => (a.write rd (immUpper imm)).advance
  | .auipc rd imm =>
    match mode with
    | .pcPlusImmNoWrite => { a with pc := a.pc + immUpper imm }
    | .pcPlus4NoWrite => a.advance
    | .rv32i => (a.write rd (a.pc + immUpper imm)).advance
  | .jal rd imm => { a.write rd (a.pc + 4#32) with pc := a.pc + immSext21 imm }
  | .jalr rd rs1 imm => { a.write rd (a.pc + 4#32) with pc := jalrTarget (a.read rs1) (immSext12 imm) }
  | .beq rs1 rs2 imm => a.branch .beq rs1 rs2 imm
  | .bne rs1 rs2 imm => a.branch .bne rs1 rs2 imm
  | .blt rs1 rs2 imm => a.branch .blt rs1 rs2 imm
  | .bge rs1 rs2 imm => a.branch .bge rs1 rs2 imm
  | .bltu rs1 rs2 imm => a.branch .bltu rs1 rs2 imm
  | .bgeu rs1 rs2 imm => a.branch .bgeu rs1 rs2 imm
  | .lb rd rs1 imm => (a.write rd ((memRead1 a.mem (a.addr rs1 imm)).signExtend 32)).advance
  | .lh rd rs1 imm => (a.write rd ((memRead2 a.mem (a.addr rs1 imm)).signExtend 32)).advance
  | .lw rd rs1 imm => (a.write rd (memRead4 a.mem (a.addr rs1 imm))).advance
  | .lbu rd rs1 imm => (a.write rd ((memRead1 a.mem (a.addr rs1 imm)).setWidth 32)).advance
  | .lhu rd rs1 imm => (a.write rd ((memRead2 a.mem (a.addr rs1 imm)).setWidth 32)).advance
  | .sb rs1 rs2 imm => { a with mem := memWrite a.mem (a.addr rs1 imm) 1 (a.read rs2) }.advance
  | .sh rs1 rs2 imm => { a with mem := memWrite a.mem (a.addr rs1 imm) 2 (a.read rs2) }.advance
  | .sw rs1 rs2 imm => { a with mem := memWrite a.mem (a.addr rs1 imm) 4 (a.read rs2) }.advance
  | .addi rd rs1 imm => a.compute .addi rd (a.read rs1) (immSext12 imm)
  | .slti rd rs1 imm => a.compute .slti rd (a.read rs1) (immSext12 imm)
  | .sltiu rd rs1 imm => a.compute .sltiu rd (a.read rs1) (immSext12 imm)
  | .xori rd rs1 imm => a.compute .xori rd (a.read rs1) (immSext12 imm)
  | .ori rd rs1 imm => a.compute .ori rd (a.read rs1) (immSext12 imm)
  | .andi rd rs1 imm => a.compute .andi rd (a.read rs1) (immSext12 imm)
  | .slli rd rs1 shamt => a.compute .slli rd (a.read rs1) (shamtZext shamt)
  | .srli rd rs1 shamt => a.compute .srli rd (a.read rs1) (shamtZext shamt)
  | .srai rd rs1 shamt => a.compute .srai rd (a.read rs1) (shamtZext shamt)
  | .add rd rs1 rs2 => a.compute .add rd (a.read rs1) (a.read rs2)
  | .sub rd rs1 rs2 => a.compute .sub rd (a.read rs1) (a.read rs2)
  | .sll rd rs1 rs2 => a.compute .sll rd (a.read rs1) (a.read rs2)
  | .slt rd rs1 rs2 => a.compute .slt rd (a.read rs1) (a.read rs2)
  | .sltu rd rs1 rs2 => a.compute .sltu rd (a.read rs1) (a.read rs2)
  | .xor rd rs1 rs2 => a.compute .xor rd (a.read rs1) (a.read rs2)
  | .srl rd rs1 rs2 => a.compute .srl rd (a.read rs1) (a.read rs2)
  | .sra rd rs1 rs2 => a.compute .sra rd (a.read rs1) (a.read rs2)
  | .or rd rs1 rs2 => a.compute .or rd (a.read rs1) (a.read rs2)
  | .and rd rs1 rs2 => a.compute .and rd (a.read rs1) (a.read rs2)

/-- The outcomes of one interpreter step (R405). -/
inductive SeqOutcome
  | next (a : Arch)
  | stop (code : BitVec 8)
  | fatal (w : Word)
  deriving DecidableEq, Repr

/-- One step of the reference interpreter (R405). -/
def seqStep (c : Config) (a : Arch) : SeqOutcome :=
  let w := memRead4 a.mem a.pc
  match decode c.endWord w with
  | .error _ => .fatal w
  | .ok .endProg => .stop ((a.read a0).setWidth 8)
  | .ok i => .next (archEffect c.auipcMode i a)

/-- The architectural view of a machine state: committed registers, pc, and memory with the queued stores applied
(R11, R321). The pc is the fetch unit's, which equals the sequential one only when nothing is in flight (R22). -/
def State.arch (s : State) : Arch where
  x := ⟨⟨s.cur.reg.toList.map (·.value)⟩, by simp⟩
  pc := s.cur.pc
  mem := finalMemory s

end Sys2Proof.Machine
end

