-- ==== Sys2Proof/Machine/Step.lean ====
section
/-! DEFINITION. The machine's step, one clock cycle (R130), and the placing of an instruction where the next step
fetches. -/

namespace Sys2Proof.Machine

/-- One step is one cycle of the orchestrator (R130). -/
def step (s : State) : Host.Outcome State Fault Refusal := cycle s

/-- `s` with an instruction word of `nbits` bits (bits above them 0) at the address the fetch unit reads next. -/
def State.withFetchWord (s : State) (nbits w : Nat) : State :=
  s.withWordAt s.cur.pc (BitVec.ofNat 32 (w % 2 ^ nbits))

end Sys2Proof.Machine
end

