-- ==== Sys2Proof/Safety.lean ====
section
/-! DEFINITION. What a well-behaved state of the core is: the invariants of spec/10_state.md R46 with the facts the
spec derives beside them (R29, R198, R311, R313, R321, R345, R347), as predicates over one published bank. `Inv`
gathers them; the statements about every step are made with `Inv` as their premise. -/

namespace Sys2Proof.Machine

/-! ### Rings and canonical forms -/

/-- How far slot `i` lies behind the head of the reorder buffer. -/
def Bank.robAge (b : Bank) (i : Slot) : Nat := (i - b.robHead).toNat

/-- The arrays have their parameters' sizes and the LSQ cursors lie in the ring (R32, R34). -/
structure Shaped (c : Config) (b : Bank) : Prop where
  rsLength : b.rs.length = c.rsSize
  lsqLength : b.lsq.length = c.lsqSize
  lsqHeadIn : b.lsqHead < c.lsqSize
  lsqTailIn : b.lsqTail < c.lsqSize

/-- Register 0 holds 0 and is never dirty (R345). -/
abbrev ZeroOk (b : Bank) : Prop :=
  (slotGet b.reg 0#5).value = 0#32 ∧ (slotGet b.reg 0#5).dirty = false

/-! ### Register alias table (R347) -/

/-- RoB slot `t` is occupied and holds a RegisterWrite for register `i`. -/
abbrev Bank.produces (b : Bank) (t : Slot) (i : Reg) : Prop :=
  b.robOccupied t = true ∧ (slotGet b.rob t).kind = .registerWrite ∧ (slotGet b.rob t).dest = i.setWidth 32

/-- R347 (R46 e): a register is dirty exactly when some uncommitted RegisterWrite entry names it, and its `dep` is
then the youngest such entry. -/
structure RatOk (b : Bank) : Prop where
  dirtyHasProducer : ∀ i : Reg, (slotGet b.reg i).dirty = true → b.produces (slotGet b.reg i).dep i
  producerMakesDirty : ∀ (i : Reg) (t : Slot), i ≠ 0#5 → b.produces t i → (slotGet b.reg i).dirty = true
  depIsYoungest : ∀ (i : Reg) (t : Slot), (slotGet b.reg i).dirty = true → b.produces t i →
    b.robAge t ≤ b.robAge (slotGet b.reg i).dep

/-! ### Reservation station and units -/

/-- An operand of the instruction in RoB slot `t` that waits for slot `q`: the producer is occupied, writes a
register, and is older than the waiter (R198, R311). -/
abbrev Bank.waitOk (b : Bank) (q t : Slot) : Prop :=
  b.robOccupied q = true ∧ (slotGet b.rob q).kind = .registerWrite ∧ b.robAge q < b.robAge t

/-- The branches among the operations (R191). -/
def RsOp.isBranch : RsOp → Bool
  | .beq | .bne | .blt | .bge | .bltu | .bgeu => true
  | .addi | .slti | .sltiu | .xori | .ori | .andi | .slli | .srli | .srai => false
  | .add | .sub | .sll | .slt | .sltu | .xor | .srl | .sra | .or | .and => false

/-- R32, R46 (f): every non-empty entry's RoB slot is occupied and not ready, no two entries share one, `busy` says
that an operand waits, and what is waited for is still there. -/
structure StationOk (b : Bank) : Prop where
  busyIff : ∀ e ∈ b.rs, e.busy = (e.q1c || e.q2c)
  slotPending : ∀ e ∈ b.rs, e.empty = false →
    b.robOccupied e.rob = true ∧ (slotGet b.rob e.rob).ready = false
      ∧ (slotGet b.rob e.rob).kind = if e.op.isBranch then .branch else .registerWrite
  slotsDistinct : ∀ k j : Nat, k < b.rs.length → j < b.rs.length → (b.rsAt k).empty = false →
    (b.rsAt j).empty = false → (b.rsAt k).rob = (b.rsAt j).rob → k = j
  wait1 : ∀ e ∈ b.rs, e.empty = false → e.q1c = true → b.waitOk e.q1 e.rob
  wait2 : ∀ e ∈ b.rs, e.empty = false → e.q2c = true → b.waitOk e.q2 e.rob

/-- R33, R46 (c): a unit is busy exactly while it holds a finished operation; busy units and issued entries
correspond, and no two busy units hold one RoB slot. -/
structure UnitsOk (b : Bank) : Prop where
  busyIffFinished : ∀ f ∈ b.fu.units, f.busy = f.finished
  unitHasEntry : ∀ (c : FuClass) (u : FuInst), (b.fu.unit c u).busy = true →
    ∃ e ∈ b.rs, e.empty = false ∧ e.issued = true ∧ e.rob = (b.fu.unit c u).index ∧ opClass e.op = c
  entryHasUnit : ∀ e ∈ b.rs, e.empty = false → e.issued = true →
    ∃ f ∈ b.fu.units, f.busy = true ∧ f.index = e.rob
  indicesDistinct : ∀ (c c' : FuClass) (u u' : FuInst), (b.fu.unit c u).busy = true →
    (b.fu.unit c' u').busy = true → (b.fu.unit c u).index = (b.fu.unit c' u').index → c = c' ∧ u = u'

/-! ### Load/store queue -/

/-- What an occupied LSQ slot `i` holds (R35, R46 g, R275, R277, R278). -/
structure LsqSlotOk (b : Bank) (i : Nat) : Prop where
  load : (b.lsqAt i).type.isLoad = true →
    b.robOccupied (b.lsqAt i).rob = true ∧ (slotGet b.rob (b.lsqAt i).rob).ready = false
      ∧ (slotGet b.rob (b.lsqAt i).rob).kind = .registerWrite
      ∧ (b.lsqAt i).ready = !(b.lsqAt i).basec ∧ (b.lsqAt i).valuec = false
  pendingStore : (b.lsqAt i).type.isStore = true → (b.lsqAt i).ready = false →
    b.robOccupied (b.lsqAt i).rob = true ∧ (slotGet b.rob (b.lsqAt i).rob).kind = .memoryWrite
      ∧ (slotGet b.rob (b.lsqAt i).rob).dest = BitVec.ofNat 32 i
      ∧ ((slotGet b.rob (b.lsqAt i).rob).ready = true →
          (b.lsqAt i).basec = false ∧ (b.lsqAt i).valuec = false)
  committed : (b.lsqAt i).committedStore = true → (b.lsqAt i).basec = false ∧ (b.lsqAt i).valuec = false
  waitBase : (b.lsqAt i).basec = true → b.waitOk (b.lsqAt i).baseq (b.lsqAt i).rob
  waitValue : (b.lsqAt i).valuec = true → b.waitOk (b.lsqAt i).valueq (b.lsqAt i).rob

/-- R46 (g): the queue is in program order, its committed stores form a prefix, every uncommitted store's RoB entry
names it, and an access in flight belongs to a ready head (R36, R282). -/
structure QueueOk (c : Config) (b : Bank) : Prop where
  slots : ∀ i < c.lsqSize, b.lsqOccupied c i = true → LsqSlotOk b i
  committedPrefix : ∀ i < c.lsqSize, ∀ j < c.lsqSize, b.lsqOccupied c i = true → b.lsqOccupied c j = true →
    b.lsqAge c i < b.lsqAge c j → (b.lsqAt j).committedStore = true → (b.lsqAt i).committedStore = true
  programOrder : ∀ i < c.lsqSize, ∀ j < c.lsqSize, b.lsqOccupied c i = true → b.lsqOccupied c j = true →
    b.lsqAge c i < b.lsqAge c j → (b.lsqAt i).committedStore = false → (b.lsqAt j).committedStore = false →
    b.robAge (b.lsqAt i).rob < b.robAge (b.lsqAt j).rob
  memoryWriteNamesStore : ∀ t : Slot, b.robOccupied t = true → (slotGet b.rob t).kind = .memoryWrite →
    (slotGet b.rob t).dest.toNat < c.lsqSize ∧ b.lsqOccupied c (slotGet b.rob t).dest.toNat = true
      ∧ (b.lsqAt (slotGet b.rob t).dest.toNat).type.isStore = true
      ∧ (b.lsqAt (slotGet b.rob t).dest.toNat).ready = false
      ∧ (b.lsqAt (slotGet b.rob t).dest.toNat).rob = t
  apartFromStation : ∀ i < c.lsqSize, b.lsqOccupied c i = true → (b.lsqAt i).type.isLoad = true →
    ∀ e ∈ b.rs, e.empty = false → e.rob ≠ (b.lsqAt i).rob
  inflightReady : b.lsqInflight = true → b.lsqEmpty = false ∧ (b.lsqAt b.lsqHead).ready = true
  countBounded : b.lsqCount ≤ 2#2

/-! ### Reorder buffer and fetch unit -/

/-- R313: an occupied entry that is not ready has someone who will make it ready: a reservation-station entry, or an
LSQ load or store; an End entry is ready from allocation. -/
structure OwnersOk (c : Config) (b : Bank) : Prop where
  pendingOwned : ∀ t : Slot, b.robOccupied t = true → (slotGet b.rob t).ready = false →
    (∃ e ∈ b.rs, e.empty = false ∧ e.rob = t)
      ∨ ∃ i < c.lsqSize, b.lsqOccupied c i = true ∧ (b.lsqAt i).committedStore = false ∧ (b.lsqAt i).rob = t
  endReady : ∀ t : Slot, b.robOccupied t = true → (slotGet b.rob t).kind = .endProg → (slotGet b.rob t).ready = true

/-- R150 to R152, R321: fetching has stopped exactly when the youngest entry is End, End is nowhere else, a pending
JALR waits for an occupied RegisterWrite slot, and the two waits exclude each other. -/
structure FetchOk (b : Bank) : Prop where
  stoppedHasEnd : b.fetchStopped = true →
    b.robEmpty = false ∧ (slotGet b.rob (b.robTail - 1#5)).kind = .endProg
  endIsYoungest : ∀ t : Slot, b.robOccupied t = true → (slotGet b.rob t).kind = .endProg →
    b.fetchStopped = true ∧ t + 1#5 = b.robTail
  jalrWaits : b.jalrWait.valid = true →
    b.robOccupied b.jalrWait.q = true ∧ (slotGet b.rob b.jalrWait.q).kind = .registerWrite
  notBoth : b.fetchStopped = true → b.jalrWait.valid = false

/-- The invariant of R46 in full, over the current bank, with the canonical forms of memory and predictor. -/
structure Inv (s : State) : Prop where
  valid : s.cfg.Valid
  shaped : Shaped s.cfg s.cur
  memory : Memory.wf s.mem
  predictor : Predictor.Wf s.cur.pred
  zero : ZeroOk s.cur
  rat : RatOk s.cur
  station : StationOk s.cur
  units : UnitsOk s.cur
  queue : QueueOk s.cfg s.cur
  owners : OwnersOk s.cfg s.cur
  fetch : FetchOk s.cur

/-- Nothing is in flight: the machine stands between two instructions, its committed state is the whole of it. -/
structure Quiescent (s : State) : Prop where
  running : s.status = .running
  robEmpty : s.cur.robEmpty = true
  lsqEmpty : s.cur.lsqEmpty = true
  notInflight : s.cur.lsqInflight = false
  rsEmpty : ∀ e ∈ s.cur.rs, e.empty = true
  unitsIdle : ∀ f ∈ s.cur.fu.units, f.busy = false ∧ f.finished = false
  fetching : s.cur.fetchStopped = false ∧ s.cur.jalrWait.valid = false
  clean : ∀ i : Reg, (slotGet s.cur.reg i).dirty = false

/-! ### The vocabulary of the statements about single operations -/

/-- Slot `k` is the lowest-numbered empty reservation-station slot (R194). -/
structure FirstFree (b : Bank) (k : Nat) : Prop where
  inRange : k < b.rs.length
  empty : (b.rsAt k).empty = true
  lowest : ∀ j < k, (b.rsAt j).empty = false

/-- `s` with the RoB entry `e` staged at the tail (R312). -/
def stageEntry (e : RobEntry) (s : State) : State :=
  { s with nxt.rob := slotSet s.nxt.rob s.cur.robTail e, nxt.robTail := s.cur.robTail + 1#5 }

/-- `s` with register `rd` renamed to the RoB slot at the tail; register 0 is never renamed (R176, R343, R345). -/
def stageRename (rd : Reg) (s : State) : State :=
  if rd = 0#5 then s
  else { s with nxt.reg := slotSet s.nxt.reg rd { slotGet s.nxt.reg rd with dirty := true, dep := s.cur.robTail } }

/-- The register an instruction names as its destination, if it has one; AUIPC has one only in the mode `rv32i`
(R166, R176). -/
def destReg (mode : AuipcMode) : Instr → Option Reg
  | .lui rd _ | .jal rd _ | .jalr rd _ _ => some rd
  | .auipc rd _ => if mode = .rv32i then some rd else none
  | .lb rd _ _ | .lh rd _ _ | .lw rd _ _ | .lbu rd _ _ | .lhu rd _ _ => some rd
  | .addi rd _ _ | .slti rd _ _ | .sltiu rd _ _ | .xori rd _ _ | .ori rd _ _ | .andi rd _ _
  | .slli rd _ _ | .srli rd _ _ | .srai rd _ _ => some rd
  | .add rd _ _ | .sub rd _ _ | .sll rd _ _ | .slt rd _ _ | .sltu rd _ _ | .xor rd _ _ | .srl rd _ _
  | .sra rd _ _ | .or rd _ _ | .and rd _ _ => some rd
  | .endProg | .beq .. | .bne .. | .blt .. | .bge .. | .bltu .. | .bgeu .. | .sb .. | .sh .. | .sw .. => none

/-- The instruction goes to the reservation station: the computational ones and the branches (R155). -/
def usesStation : Instr → Bool
  | .beq .. | .bne .. | .blt .. | .bge .. | .bltu .. | .bgeu .. => true
  | .addi .. | .slti .. | .sltiu .. | .xori .. | .ori .. | .andi .. | .slli .. | .srli .. | .srai .. => true
  | .add .. | .sub .. | .sll .. | .slt .. | .sltu .. | .xor .. | .srl .. | .sra .. | .or .. | .and .. => true
  | .endProg | .lui .. | .auipc .. | .jal .. | .jalr .. => false
  | .lb .. | .lh .. | .lw .. | .lbu .. | .lhu .. | .sb .. | .sh .. | .sw .. => false

/-- The instruction goes to the load/store queue (R155). -/
def usesQueue : Instr → Bool
  | .lb .. | .lh .. | .lw .. | .lbu .. | .lhu .. | .sb .. | .sh .. | .sw .. => true
  | .endProg | .lui .. | .auipc .. | .jal .. | .jalr .. => false
  | .beq .. | .bne .. | .blt .. | .bge .. | .bltu .. | .bgeu .. => false
  | .addi .. | .slti .. | .sltiu .. | .xori .. | .ori .. | .andi .. | .slli .. | .srli .. | .srai .. => false
  | .add .. | .sub .. | .sll .. | .slt .. | .sltu .. | .xor .. | .srl .. | .sra .. | .or .. | .and .. => false

/-- The units of class `c` that are free in `fu`, unit 0 before unit 1 (R197). -/
def FuArray.freeUnits (fu : FuArray) (c : FuClass) : List FuInst :=
  [FuInst.u0, FuInst.u1].filter fun u => !(fu.unit c u).busy

/-- How many entries of class `c` that want a unit stand in the slots below `k` (R197). -/
def contendersBelow (b : Bank) (c : FuClass) (k : Nat) : Nat :=
  ((b.rs.take k).filter fun e => e.issuable && opClass e.op == c).length

/-- The value the entry of a load delivers, from the bytes at its address, lowest first (R62, R272). -/
def loadedValue (m : Memory) (type : LsqType) (a : Word) : Word :=
  match type with
  | .lb => (readByte m a).signExtend 32
  | .lbu => (readByte m a).setWidth 32
  | .lh => (readByte m (a + 1#32) ++ readByte m a).signExtend 32
  | .lhu => (readByte m (a + 1#32) ++ readByte m a).setWidth 32
  | .lw => readByte m (a + 3#32) ++ readByte m (a + 2#32) ++ readByte m (a + 1#32) ++ readByte m a
  | .sb | .sh | .sw => 0#32

/-- The head entry of the reorder buffer. -/
def Bank.robHeadEntry (b : Bank) : RobEntry := slotGet b.rob b.robHead

/-- The commit step of this cycle acts: the head entry exists and is ready (R315). -/
def Bank.commits (b : Bank) : Bool := !b.robEmpty && b.robHeadEntry.ready

/-- The memory pipeline performs the head's access in this cycle (R280). -/
def Bank.performs (b : Bank) : Bool := b.lsqInflight && b.lsqCount == 0#2

/-! ### Runs of one instruction, and whole programs -/

/-- The addresses of the bytes an instruction stores to (R290 to R292). -/
def storedBytes (i : Instr) (a : Arch) : List Word :=
  match i with
  | .sb rs1 _ imm => [a.addr rs1 imm]
  | .sh rs1 _ imm => [a.addr rs1 imm, a.addr rs1 imm + 1#32]
  | .sw rs1 _ imm => [a.addr rs1 imm, a.addr rs1 imm + 1#32, a.addr rs1 imm + 2#32, a.addr rs1 imm + 3#32]
  | .endProg | .lui .. | .auipc .. | .jal .. | .jalr .. => []
  | .beq .. | .bne .. | .blt .. | .bge .. | .bltu .. | .bgeu .. => []
  | .lb .. | .lh .. | .lw .. | .lbu .. | .lhu .. => []
  | .addi .. | .slti .. | .sltiu .. | .xori .. | .ori .. | .andi .. | .slli .. | .srli .. | .srai .. => []
  | .add .. | .sub .. | .sll .. | .slt .. | .sltu .. | .xor .. | .srl .. | .sra .. | .or .. | .and .. => []

/-- `s` stands between two instructions, its next instruction is `i`, the word after it in program order is END, and
`i` stores to no byte of that word: a program that fetches what it has stored is excluded, as R402 asks (D21;
notes/assumptions/12.md). An instruction that is no store has no stored bytes. -/
structure SoloProgram (s : State) (i : Instr) : Prop where
  inv : Inv s
  quiescent : Quiescent s
  allMemory : 2 ^ 32 ≤ s.cfg.memSize
  decodable : i.decodable s.cfg.endWord = true
  atPc : fetchWord s = encode s.cfg.endWord i
  endNext : memRead4 s.mem (archEffect s.cfg.auipcMode i s.arch).pc = s.cfg.endWord
  endNotStored : ∀ x ∈ storedBytes i s.arch, ∀ j < 4,
    x ≠ (archEffect s.cfg.auipcMode i s.arch).pc + BitVec.ofNat 32 j

/-- From `s` the machine halts in its `n`-th step, with the architectural state `a` (R321, R398). -/
def HaltsAs (n : Nat) (s : State) (a : Arch) : Prop :=
  ∃ t, Sys2Proof.core.run n s = .next t ∧ t.status = .halted ((a.read a0).setWidth 8) ∧ t.arch = a

/-- `n` steps of the reference interpreter, ending early where it stops (R405). -/
def seqRun (c : Config) : Nat → Arch → SeqOutcome
  | 0, a => .next a
  | n + 1, a =>
    match seqStep c a with
    | .next b => seqRun c n b
    | .stop code => .stop code
    | .fatal w => .fatal w

/-- The addresses the interpreter's next step stores to. -/
def stepStores (c : Config) (a : Arch) : List Word :=
  match decode c.endWord (memRead4 a.mem a.pc) with
  | .ok i => storedBytes i a
  | .error _ => []

/-- Condition (iii) of R405: the interpreter never fetches a byte it has stored to (R402). -/
def NeverFetchesStored (c : Config) (start : Arch) : Prop :=
  ∀ i j a b, i < j → seqRun c i start = .next a → seqRun c j start = .next b →
    ∀ x ∈ stepStores c a, x ∉ [b.pc, b.pc + 1#32, b.pc + 2#32, b.pc + 3#32]

end Sys2Proof.Machine
end

