-- ==== Sys2Proof/Certificates/Slice0/Obligations.lean ====
section
/-! DEFINITION. The statements about the core, each one a proposition for the provers. A docstring names the rules of
spec/ the statement rests on; where a clause is the spec's decision (D<n>) or the model's choice (log entry <n>), it
says so. -/

section

open Sys2Proof Sys2Proof.Machine

/-! ### Encoding -/

/-- R106, R107, R109 (encodings: log entry 2): no operand bit of any instruction is dropped by the encoding, whatever
the parameter `END_WORD` is. -/
def Obligations.DecodeOfEncode : Prop :=
  ∀ (endWord : Word) (i : Instr), i.decodable endWord = true → decode endWord (encode endWord i) = .ok i

/-- R106: a decoded word is the word of the instruction read from it, and that instruction is one the encoding can
spell. -/
def Obligations.EncodeOfDecode : Prop :=
  ∀ (endWord w : Word) (i : Instr), decode endWord w = .ok i →
    encode endWord i = w ∧ i.decodable endWord = true

/-- R96, R107, R109, R112: a word other than `END_WORD` decodes to the instruction of the one row of R109 that spells
it, and is rejected exactly when no row does (strictness: D10); `END_WORD` is END whatever row spells it. -/
def Obligations.DecodeFollowsTheTable : Prop :=
  ∀ (endWord w : Word),
    decode endWord endWord = .ok .endProg
    ∧ (w ≠ endWord → ∀ i, decode endWord w = .ok i →
        i ≠ .endProg ∧ ∃ r ∈ opcodeTable, r.spells w = true ∧ r.mnemonic = i.mnemonic)
    ∧ (w ≠ endWord → ((∃ e, decode endWord w = .error e) ↔ ∀ r ∈ opcodeTable, r.spells w = false))
    ∧ (∀ r ∈ opcodeTable, ∀ q ∈ opcodeTable, r.spells w = true → q.spells w = true → r = q)

/-- spec/95_test_vectors.md: words written out there, one or more of every format, and rejected words. The R-format
word is the one of section 1 (E1) and of R232, the others stand in section 2. The default END word is the spec's choice
D1 (log entry 1), and that `funct3` and `funct7` are checked is its choice D10 (log entry 17). -/
def Obligations.DecodeWordsOfTheSpec : Prop :=
  let e := Config.default.endWord
  decode e 0xFFF10093#32 = .ok (.addi 1#5 2#5 0xFFF#12)
  ∧ decode e 0x0FF00593#32 = .ok (.addi 11#5 0#5 0x0FF#12)
  ∧ decode e 0x41F15093#32 = .ok (.srai 1#5 2#5 31#5)
  ∧ decode e 0xFFC22183#32 = .ok (.lw 3#5 4#5 0xFFC#12)
  ∧ decode e 0xFE63AFA3#32 = .ok (.sw 7#5 6#5 0xFFF#12)
  ∧ decode e 0x0083C0E3#32 = .ok (.blt 7#5 8#5 0x0800#13)
  ∧ decode e 0x80000137#32 = .ok (.lui 2#5 0x80000#20)
  ∧ decode e 0x001000EF#32 = .ok (.jal 1#5 0x000800#21)
  ∧ decode e 0x002081B3#32 = .ok (.add 3#5 1#5 2#5)
  ∧ decode e 0x0FF00513#32 = .ok .endProg
  ∧ decode e 0x00000000#32 = .error .majorOpcode
  ∧ decode e 0x00002063#32 = .error .funct3
  ∧ decode e 0x02208033#32 = .error .funct7

/-! ### Memory -/

/-- R62: reads are little-endian at every width, and an instruction is fetched in the same order. That the addresses of
an access run modulo 2^32 is R64, the spec's choice D20 (log entry 21). -/
def Obligations.ReadsAreLittleEndian : Prop :=
  ∀ (m : Memory) (a : Word) (s : State),
    memRead1 m a = readByte m a
    ∧ (∀ i < 2, (memRead2 m a).extractLsb' (8 * i) 8 = readByte m (a + BitVec.ofNat 32 i))
    ∧ (∀ i < 4, (memRead4 m a).extractLsb' (8 * i) 8 = readByte m (a + BitVec.ofNat 32 i))
    ∧ (∀ i < 4, (fetchWord s).extractLsb' (8 * i) 8 = readByte s.mem (s.cur.pc + BitVec.ofNat 32 i))
    ∧ opcodeOf (fetchWord s) = (readByte s.mem s.cur.pc).extractLsb' 0 7
    ∧ (rdOf (fetchWord s)).getLsbD 0 = (readByte s.mem s.cur.pc).getLsbD 7

/-- R63: a write of 1, 2 or 4 bytes puts byte `i` of the value at address `a + i` and changes no other byte. -/
def Obligations.WritesStoreTheirBytesOnly : Prop :=
  ∀ (m : Memory) (a v : Word) (n : Nat), Memory.wf m → n = 1 ∨ n = 2 ∨ n = 4 →
    (∀ i < n, readByte (memWrite m a n v) (a + BitVec.ofNat 32 i) = v.extractLsb' (8 * i) 8)
    ∧ ∀ b : Word, (∀ i < n, b ≠ a + BitVec.ofNat 32 i) → readByte (memWrite m a n v) b = readByte m b

/-! ### What the instructions compute: encoding, Execute, class, architectural effect -/

/-- R223 to R228. -/
def Obligations.ArithmeticImmediateRules : Prop :=
  ∀ (e : Word) (rd rs1 : Reg) (imm : BitVec 12) (mode : AuipcMode) (s : Arch) (a b : Word),
    let word := fun f3 : BitVec 3 => imm ++ rs1 ++ f3 ++ rd ++ 0b0010011#7
    let effect := fun op : RsOp =>
      { s.write rd (execute op (s.read rs1) (imm.signExtend 32)) with pc := s.pc + 4#32 }
    (encode e (.addi rd rs1 imm) = word 0b000#3 ∧ opClass .addi = .add
      ∧ execute .addi a b = BitVec.ofNat 32 (a.toNat + b.toNat)
      ∧ archEffect mode (.addi rd rs1 imm) s = effect .addi)
    ∧ (encode e (.slti rd rs1 imm) = word 0b010#3 ∧ opClass .slti = .setCmp
      ∧ execute .slti a b = (if a.toInt < b.toInt then 1#32 else 0#32)
      ∧ archEffect mode (.slti rd rs1 imm) s = effect .slti)
    ∧ (encode e (.sltiu rd rs1 imm) = word 0b011#3 ∧ opClass .sltiu = .setCmp
      ∧ execute .sltiu a b = (if a.toNat < b.toNat then 1#32 else 0#32)
      ∧ archEffect mode (.sltiu rd rs1 imm) s = effect .sltiu)
    ∧ (encode e (.xori rd rs1 imm) = word 0b100#3 ∧ opClass .xori = .logic
      ∧ (∀ n, (execute .xori a b).getLsbD n = (a.getLsbD n != b.getLsbD n))
      ∧ archEffect mode (.xori rd rs1 imm) s = effect .xori)
    ∧ (encode e (.ori rd rs1 imm) = word 0b110#3 ∧ opClass .ori = .logic
      ∧ (∀ n, (execute .ori a b).getLsbD n = (a.getLsbD n || b.getLsbD n))
      ∧ archEffect mode (.ori rd rs1 imm) s = effect .ori)
    ∧ (encode e (.andi rd rs1 imm) = word 0b111#3 ∧ opClass .andi = .logic
      ∧ (∀ n, (execute .andi a b).getLsbD n = (a.getLsbD n && b.getLsbD n))
      ∧ archEffect mode (.andi rd rs1 imm) s = effect .andi)

/-- R229 to R231, R234, R238, R239; that only the low five bits of operand 2 count is the spec's decision D9
(R222). -/
def Obligations.ShiftRules : Prop :=
  ∀ (e : Word) (rd rs1 rs2 : Reg) (shamt : BitVec 5) (mode : AuipcMode) (s : Arch) (a b : Word),
    let immWord := fun (f7 : BitVec 7) (f3 : BitVec 3) => f7 ++ shamt ++ rs1 ++ f3 ++ rd ++ 0b0010011#7
    let regWord := fun (f7 : BitVec 7) (f3 : BitVec 3) => f7 ++ rs2 ++ rs1 ++ f3 ++ rd ++ 0b0110011#7
    let n := b.toNat % 32
    let left := BitVec.ofNat 32 (a.toNat * 2 ^ n)
    let right := BitVec.ofNat 32 (a.toNat / 2 ^ n)
    let arith := BitVec.ofInt 32 (a.toInt / (2 ^ n : Int))
    let effect := fun (op : RsOp) (v : Word) =>
      { s.write rd (execute op (s.read rs1) v) with pc := s.pc + 4#32 }
    (encode e (.slli rd rs1 shamt) = immWord 0b0000000#7 0b001#3 ∧ opClass .slli = .shift
      ∧ execute .slli a b = left ∧ archEffect mode (.slli rd rs1 shamt) s = effect .slli (shamt.setWidth 32))
    ∧ (encode e (.srli rd rs1 shamt) = immWord 0b0000000#7 0b101#3 ∧ opClass .srli = .shift
      ∧ execute .srli a b = right ∧ archEffect mode (.srli rd rs1 shamt) s = effect .srli (shamt.setWidth 32))
    ∧ (encode e (.srai rd rs1 shamt) = immWord 0b0100000#7 0b101#3 ∧ opClass .srai = .shift
      ∧ execute .srai a b = arith ∧ archEffect mode (.srai rd rs1 shamt) s = effect .srai (shamt.setWidth 32))
    ∧ (encode e (.sll rd rs1 rs2) = regWord 0b0000000#7 0b001#3 ∧ opClass .sll = .shift
      ∧ execute .sll a b = left ∧ archEffect mode (.sll rd rs1 rs2) s = effect .sll (s.read rs2))
    ∧ (encode e (.srl rd rs1 rs2) = regWord 0b0000000#7 0b101#3 ∧ opClass .srl = .shift
      ∧ execute .srl a b = right ∧ archEffect mode (.srl rd rs1 rs2) s = effect .srl (s.read rs2))
    ∧ (encode e (.sra rd rs1 rs2) = regWord 0b0100000#7 0b101#3 ∧ opClass .sra = .shift
      ∧ execute .sra a b = arith ∧ archEffect mode (.sra rd rs1 rs2) s = effect .sra (s.read rs2))

/-- R232, R233, R235 to R237, R240, R241. -/
def Obligations.RegisterOperationRules : Prop :=
  ∀ (e : Word) (rd rs1 rs2 : Reg) (mode : AuipcMode) (s : Arch) (a b : Word),
    let word := fun (f7 : BitVec 7) (f3 : BitVec 3) => f7 ++ rs2 ++ rs1 ++ f3 ++ rd ++ 0b0110011#7
    let effect := fun op : RsOp =>
      { s.write rd (execute op (s.read rs1) (s.read rs2)) with pc := s.pc + 4#32 }
    (encode e (.add rd rs1 rs2) = word 0b0000000#7 0b000#3 ∧ opClass .add = .add
      ∧ execute .add a b = BitVec.ofNat 32 (a.toNat + b.toNat)
      ∧ archEffect mode (.add rd rs1 rs2) s = effect .add)
    ∧ (encode e (.sub rd rs1 rs2) = word 0b0100000#7 0b000#3 ∧ opClass .sub = .add
      ∧ execute .sub a b = BitVec.ofInt 32 ((a.toNat : Int) - (b.toNat : Int))
      ∧ archEffect mode (.sub rd rs1 rs2) s = effect .sub)
    ∧ (encode e (.slt rd rs1 rs2) = word 0b0000000#7 0b010#3 ∧ opClass .slt = .setCmp
      ∧ execute .slt a b = (if a.toInt < b.toInt then 1#32 else 0#32)
      ∧ archEffect mode (.slt rd rs1 rs2) s = effect .slt)
    ∧ (encode e (.sltu rd rs1 rs2) = word 0b0000000#7 0b011#3 ∧ opClass .sltu = .setCmp
      ∧ execute .sltu a b = (if a.toNat < b.toNat then 1#32 else 0#32)
      ∧ archEffect mode (.sltu rd rs1 rs2) s = effect .sltu)
    ∧ (encode e (.xor rd rs1 rs2) = word 0b0000000#7 0b100#3 ∧ opClass .xor = .logic
      ∧ (∀ n, (execute .xor a b).getLsbD n = (a.getLsbD n != b.getLsbD n))
      ∧ archEffect mode (.xor rd rs1 rs2) s = effect .xor)
    ∧ (encode e (.or rd rs1 rs2) = word 0b0000000#7 0b110#3 ∧ opClass .or = .logic
      ∧ (∀ n, (execute .or a b).getLsbD n = (a.getLsbD n || b.getLsbD n))
      ∧ archEffect mode (.or rd rs1 rs2) s = effect .or)
    ∧ (encode e (.and rd rs1 rs2) = word 0b0000000#7 0b111#3 ∧ opClass .and = .logic
      ∧ (∀ n, (execute .and a b).getLsbD n = (a.getLsbD n && b.getLsbD n))
      ∧ archEffect mode (.and rd rs1 rs2) s = effect .and)

/-- R251 to R256, with the architectural effect of R257 (its correct target: D25). -/
def Obligations.BranchRules : Prop :=
  ∀ (e : Word) (rs1 rs2 : Reg) (imm : BitVec 13) (mode : AuipcMode) (s : Arch) (a b : Word),
    let word := fun f3 : BitVec 3 =>
      imm.extractLsb' 12 1 ++ imm.extractLsb' 5 6 ++ rs2 ++ rs1 ++ f3 ++ imm.extractLsb' 1 4 ++ imm.extractLsb' 11 1
        ++ 0b1100011#7
    let x := s.read rs1
    let y := s.read rs2
    let effect := fun taken : Bool =>
      { s with pc := if taken then s.pc + imm.signExtend 32 else s.pc + 4#32 }
    (encode e (.beq rs1 rs2 imm) = word 0b000#3 ∧ opClass .beq = .setCmp
      ∧ execute .beq a b = (if a = b then 1#32 else 0#32)
      ∧ archEffect mode (.beq rs1 rs2 imm) s = effect (decide (x = y)))
    ∧ (encode e (.bne rs1 rs2 imm) = word 0b001#3 ∧ opClass .bne = .setCmp
      ∧ execute .bne a b = (if a ≠ b then 1#32 else 0#32)
      ∧ archEffect mode (.bne rs1 rs2 imm) s = effect (decide (x ≠ y)))
    ∧ (encode e (.blt rs1 rs2 imm) = word 0b100#3 ∧ opClass .blt = .setCmp
      ∧ execute .blt a b = (if a.toInt < b.toInt then 1#32 else 0#32)
      ∧ archEffect mode (.blt rs1 rs2 imm) s = effect (decide (x.toInt < y.toInt)))
    ∧ (encode e (.bge rs1 rs2 imm) = word 0b101#3 ∧ opClass .bge = .setCmp
      ∧ execute .bge a b = (if a.toInt ≥ b.toInt then 1#32 else 0#32)
      ∧ archEffect mode (.bge rs1 rs2 imm) s = effect (decide (x.toInt ≥ y.toInt)))
    ∧ (encode e (.bltu rs1 rs2 imm) = word 0b110#3 ∧ opClass .bltu = .setCmp
      ∧ execute .bltu a b = (if a.toNat < b.toNat then 1#32 else 0#32)
      ∧ archEffect mode (.bltu rs1 rs2 imm) s = effect (decide (x.toNat < y.toNat)))
    ∧ (encode e (.bgeu rs1 rs2 imm) = word 0b111#3 ∧ opClass .bgeu = .setCmp
      ∧ execute .bgeu a b = (if a.toNat ≥ b.toNat then 1#32 else 0#32)
      ∧ archEffect mode (.bgeu rs1 rs2 imm) s = effect (decide (x.toNat ≥ y.toNat)))

/-- R285 to R292: encoding, type and architectural effect of the loads and stores, with the accessor of each type
(R272 supplies the pairing from general knowledge). -/
def Obligations.LoadStoreRules : Prop :=
  ∀ (e : Word) (rd rs1 rs2 : Reg) (imm : BitVec 12) (mode : AuipcMode) (s : Arch),
    let ldWord := fun f3 : BitVec 3 => imm ++ rs1 ++ f3 ++ rd ++ 0b0000011#7
    let stWord := fun f3 : BitVec 3 =>
      imm.extractLsb' 5 7 ++ rs2 ++ rs1 ++ f3 ++ imm.extractLsb' 0 5 ++ 0b0100011#7
    let addr := s.read rs1 + imm.signExtend 32
    let loaded := fun v : Word => { s.write rd v with pc := s.pc + 4#32 }
    let stored := fun n : Nat => { s with mem := memWrite s.mem addr n (s.read rs2), pc := s.pc + 4#32 }
    (encode e (.lb rd rs1 imm) = ldWord 0b000#3
      ∧ archEffect mode (.lb rd rs1 imm) s = loaded ((memRead1 s.mem addr).signExtend 32))
    ∧ (encode e (.lh rd rs1 imm) = ldWord 0b001#3
      ∧ archEffect mode (.lh rd rs1 imm) s = loaded ((memRead2 s.mem addr).signExtend 32))
    ∧ (encode e (.lw rd rs1 imm) = ldWord 0b010#3
      ∧ archEffect mode (.lw rd rs1 imm) s = loaded (memRead4 s.mem addr))
    ∧ (encode e (.lbu rd rs1 imm) = ldWord 0b100#3
      ∧ archEffect mode (.lbu rd rs1 imm) s = loaded ((memRead1 s.mem addr).setWidth 32))
    ∧ (encode e (.lhu rd rs1 imm) = ldWord 0b101#3
      ∧ archEffect mode (.lhu rd rs1 imm) s = loaded ((memRead2 s.mem addr).setWidth 32))
    ∧ (encode e (.sb rs1 rs2 imm) = stWord 0b000#3 ∧ archEffect mode (.sb rs1 rs2 imm) s = stored 1)
    ∧ (encode e (.sh rs1 rs2 imm) = stWord 0b001#3 ∧ archEffect mode (.sh rs1 rs2 imm) s = stored 2)
    ∧ (encode e (.sw rs1 rs2 imm) = stWord 0b010#3 ∧ archEffect mode (.sw rs1 rs2 imm) s = stored 4)

/-! ### Dispatch: what an instruction does in the cycle it is fetched -/

/-- R160 (pc unchanged: D26). -/
def Obligations.EndDispatch : Prop :=
  ∀ s : State, s.cur.robFull = false →
    exec .endProg s = .next
      { stageEntry ⟨true, false, .endProg, 0#32, 0#32, 0#32⟩ s with nxt.fetchStopped := true }

/-- R161, R167: LUI and JAL are resolved in the fetch cycle. -/
def Obligations.LuiAndJalDispatch : Prop :=
  ∀ (rd : Reg) (imm : BitVec 20) (off : BitVec 21) (s : State), s.cur.robFull = false →
    (exec (.lui rd imm) s = .next
        { stageRename rd (stageEntry ⟨true, false, .registerWrite, rd.setWidth 32, imm ++ 0#12, 0#32⟩ s) with
          nxt.pc := s.cur.pc + 4#32 }
      ∧ (∀ e, encode e (.lui rd imm) = imm ++ rd ++ 0b0110111#7)
      ∧ ∀ mode a, archEffect mode (.lui rd imm) a = { a.write rd (imm ++ 0#12) with pc := a.pc + 4#32 })
    ∧ (exec (.jal rd off) s = .next
        { stageRename rd (stageEntry ⟨true, false, .registerWrite, rd.setWidth 32, s.cur.pc + 4#32, 0#32⟩ s) with
          nxt.pc := s.cur.pc + off.signExtend 32 }
      ∧ (∀ e, encode e (.jal rd off)
          = off.extractLsb' 20 1 ++ off.extractLsb' 1 10 ++ off.extractLsb' 11 1 ++ off.extractLsb' 12 8 ++ rd
            ++ 0b1101111#7)
      ∧ ∀ mode a, archEffect mode (.jal rd off) a
          = { a.write rd (a.pc + 4#32) with pc := a.pc + off.signExtend 32 })

/-- R166 in the three modes of `AUIPC_MODE` (D7): without a register write nothing but the pc is staged. -/
def Obligations.AuipcDispatch : Prop :=
  ∀ (rd : Reg) (imm : BitVec 20) (s : State), s.cur.robFull = false →
    (s.cfg.auipcMode = .pcPlusImmNoWrite →
      exec (.auipc rd imm) s = .next { s with nxt.pc := s.cur.pc + (imm ++ 0#12) })
    ∧ (s.cfg.auipcMode = .pcPlus4NoWrite →
      exec (.auipc rd imm) s = .next { s with nxt.pc := s.cur.pc + 4#32 })
    ∧ (s.cfg.auipcMode = .rv32i →
      exec (.auipc rd imm) s = .next
        { stageRename rd (stageEntry
            ⟨true, false, .registerWrite, rd.setWidth 32, s.cur.pc + (imm ++ 0#12), 0#32⟩ s) with
          nxt.pc := s.cur.pc + 4#32 })

/-- R168 (bit 0 of the target: D8; the wait record: D38): the base is the one from before the rename, also when
`rd = rs1` (R177). -/
def Obligations.JalrDispatch : Prop :=
  ∀ (rd rs1 : Reg) (imm : BitVec 12) (s : State), s.cur.robFull = false →
    let linked :=
      stageRename rd (stageEntry ⟨true, false, .registerWrite, rd.setWidth 32, s.cur.pc + 4#32, 0#32⟩ s)
    (∀ v, resolve s rs1 = .value v →
      exec (.jalr rd rs1 imm) s = .next
        { linked with nxt.pc := (v + imm.signExtend 32) &&& 0xFFFFFFFE#32 })
    ∧ (∀ q, resolve s rs1 = .wait q →
      exec (.jalr rd rs1 imm) s = .next
        { linked with nxt.jalrWait := ⟨true, q, imm.signExtend 32⟩ })
    ∧ ∀ mode a, archEffect mode (.jalr rd rs1 imm) a
        = { a.write rd (a.pc + 4#32) with pc := (a.read rs1 + imm.signExtend 32) &&& 0xFFFFFFFE#32 }

/-- R173: the 19 computational instructions. That the entry takes the lowest empty slot is the spec's choice D12, and
that it is busy only while an operand waits is D11 (log entry 13); the entry's fields are written out in
`EntryFieldsAtDispatch`. -/
def Obligations.ComputationalDispatch : Prop :=
  ∀ (rd rs1 rs2 : Reg) (imm : BitVec 12) (shamt : BitVec 5) (s : State) (k : Nat),
    s.cur.robFull = false → FirstFree s.cur k →
    let dispatched := fun (op : RsOp) (o2 : Operand) => (Host.Outcome.next
      { stageRename rd (stageEntry ⟨false, false, .registerWrite, rd.setWidth 32, 0#32, 0#32⟩ s) with
        nxt.rs := s.nxt.rs.set k (rsEntry op s.cur.robTail (resolve s rs1) o2)
        nxt.pc := s.cur.pc + 4#32 } : Machine.Result)
    exec (.addi rd rs1 imm) s = dispatched .addi (.value (imm.signExtend 32))
    ∧ exec (.slti rd rs1 imm) s = dispatched .slti (.value (imm.signExtend 32))
    ∧ exec (.sltiu rd rs1 imm) s = dispatched .sltiu (.value (imm.signExtend 32))
    ∧ exec (.xori rd rs1 imm) s = dispatched .xori (.value (imm.signExtend 32))
    ∧ exec (.ori rd rs1 imm) s = dispatched .ori (.value (imm.signExtend 32))
    ∧ exec (.andi rd rs1 imm) s = dispatched .andi (.value (imm.signExtend 32))
    ∧ exec (.slli rd rs1 shamt) s = dispatched .slli (.value (shamt.setWidth 32))
    ∧ exec (.srli rd rs1 shamt) s = dispatched .srli (.value (shamt.setWidth 32))
    ∧ exec (.srai rd rs1 shamt) s = dispatched .srai (.value (shamt.setWidth 32))
    ∧ exec (.add rd rs1 rs2) s = dispatched .add (resolve s rs2)
    ∧ exec (.sub rd rs1 rs2) s = dispatched .sub (resolve s rs2)
    ∧ exec (.sll rd rs1 rs2) s = dispatched .sll (resolve s rs2)
    ∧ exec (.slt rd rs1 rs2) s = dispatched .slt (resolve s rs2)
    ∧ exec (.sltu rd rs1 rs2) s = dispatched .sltu (resolve s rs2)
    ∧ exec (.xor rd rs1 rs2) s = dispatched .xor (resolve s rs2)
    ∧ exec (.srl rd rs1 rs2) s = dispatched .srl (resolve s rs2)
    ∧ exec (.sra rd rs1 rs2) s = dispatched .sra (resolve s rs2)
    ∧ exec (.or rd rs1 rs2) s = dispatched .or (resolve s rs2)
    ∧ exec (.and rd rs1 rs2) s = dispatched .and (resolve s rs2)

/-- R170: the six branches. That the entry takes the lowest empty slot is the spec's choice D12, and its `busy` D11
(log entry 13); that the Branch entry's `dest` is the taken target is D25 (log entry 18). The station entry's fields are
written out in `EntryFieldsAtDispatch`. -/
def Obligations.BranchDispatch : Prop :=
  ∀ (rs1 rs2 : Reg) (imm : BitVec 13) (s : State) (k : Nat), s.cur.robFull = false → FirstFree s.cur k →
    let p := predict s s.cur.pc
    let target := s.cur.pc + imm.signExtend 32
    let dispatched := fun op : RsOp => (Host.Outcome.next
      { stageEntry ⟨false, p, .branch, target, 0#32, s.cur.pc⟩ s with
        nxt.rs := s.nxt.rs.set k (rsEntry op s.cur.robTail (resolve s rs1) (resolve s rs2))
        nxt.pc := if p then target else s.cur.pc + 4#32 } : Machine.Result)
    exec (.beq rs1 rs2 imm) s = dispatched .beq
    ∧ exec (.bne rs1 rs2 imm) s = dispatched .bne
    ∧ exec (.blt rs1 rs2 imm) s = dispatched .blt
    ∧ exec (.bge rs1 rs2 imm) s = dispatched .bge
    ∧ exec (.bltu rs1 rs2 imm) s = dispatched .bltu
    ∧ exec (.bgeu rs1 rs2 imm) s = dispatched .bgeu

/-- R171, R172: the five loads and the three stores; a store renames no register, and memory is not written here. The
fields of the queue entries are written out in `EntryFieldsAtDispatch`; that a load with its base is ready at once is the
spec's choice D16 (log entry 13). -/
def Obligations.LoadAndStoreDispatch : Prop :=
  ∀ (rd rs1 rs2 : Reg) (imm : BitVec 12) (s : State), s.cur.robFull = false → s.cur.lsqFull s.cfg = false →
    let offset := imm.signExtend 32
    let load := fun type : LsqType => (Host.Outcome.next
      { stageRename rd (stageEntry ⟨false, false, .registerWrite, rd.setWidth 32, 0#32, 0#32⟩ s) with
        nxt.lsq := s.nxt.lsq.set s.cur.lsqTail (loadEntry type s.cur.robTail (resolve s rs1) offset)
        nxt.lsqTail := (s.cur.lsqTail + 1) % s.cfg.lsqSize
        nxt.pc := s.cur.pc + 4#32 } : Machine.Result)
    let store := fun type : LsqType => (Host.Outcome.next
      { stageEntry ⟨false, false, .memoryWrite, BitVec.ofNat 32 s.cur.lsqTail, 0#32, 0#32⟩ s with
        nxt.lsq := s.nxt.lsq.set s.cur.lsqTail
          (storeEntry type s.cur.robTail (resolve s rs1) (resolve s rs2) offset)
        nxt.lsqTail := (s.cur.lsqTail + 1) % s.cfg.lsqSize
        nxt.pc := s.cur.pc + 4#32 } : Machine.Result)
    exec (.lb rd rs1 imm) s = load .lb
    ∧ exec (.lh rd rs1 imm) s = load .lh
    ∧ exec (.lw rd rs1 imm) s = load .lw
    ∧ exec (.lbu rd rs1 imm) s = load .lbu
    ∧ exec (.lhu rd rs1 imm) s = load .lhu
    ∧ exec (.sb rs1 rs2 imm) s = store .sb
    ∧ exec (.sh rs1 rs2 imm) s = store .sh
    ∧ exec (.sw rs1 rs2 imm) s = store .sw

/-- R193, R273: every field of the entry a dispatch stages, for each outcome of resolving an operand. An entry's `busy`
is the spec's choice D11 and a load's `ready` is D16 (log entry 13). -/
def Obligations.EntryFieldsAtDispatch : Prop :=
  ∀ (op : RsOp) (type : LsqType) (t p q : Slot) (u v offset : Word),
    rsEntry op t (.value u) (.value v)
      = { empty := false, busy := false, issued := false, op := op, q1c := false, q1 := 0#5, v1 := u, q2c := false,
          q2 := 0#5, v2 := v, rob := t }
    ∧ rsEntry op t (.wait p) (.value v)
      = { empty := false, busy := true, issued := false, op := op, q1c := true, q1 := p, v1 := 0#32, q2c := false,
          q2 := 0#5, v2 := v, rob := t }
    ∧ rsEntry op t (.value u) (.wait q)
      = { empty := false, busy := true, issued := false, op := op, q1c := false, q1 := 0#5, v1 := u, q2c := true,
          q2 := q, v2 := 0#32, rob := t }
    ∧ rsEntry op t (.wait p) (.wait q)
      = { empty := false, busy := true, issued := false, op := op, q1c := true, q1 := p, v1 := 0#32, q2c := true,
          q2 := q, v2 := 0#32, rob := t }
    ∧ loadEntry type t (.value u) offset
      = { ready := true, basec := false, baseq := 0#5, valuec := false, valueq := 0#5, type := type, base := u,
          offset := offset, value := 0#32, rob := t }
    ∧ loadEntry type t (.wait p) offset
      = { ready := false, basec := true, baseq := p, valuec := false, valueq := 0#5, type := type, base := 0#32,
          offset := offset, value := 0#32, rob := t }
    ∧ storeEntry type t (.value u) (.value v) offset
      = { ready := false, basec := false, baseq := 0#5, valuec := false, valueq := 0#5, type := type, base := u,
          offset := offset, value := v, rob := t }
    ∧ storeEntry type t (.wait p) (.value v) offset
      = { ready := false, basec := true, baseq := p, valuec := false, valueq := 0#5, type := type, base := 0#32,
          offset := offset, value := v, rob := t }
    ∧ storeEntry type t (.value u) (.wait q) offset
      = { ready := false, basec := false, baseq := 0#5, valuec := true, valueq := q, type := type, base := u,
          offset := offset, value := 0#32, rob := t }
    ∧ storeEntry type t (.wait p) (.wait q) offset
      = { ready := false, basec := true, baseq := p, valuec := true, valueq := q, type := type, base := 0#32,
          offset := offset, value := 0#32, rob := t }

/-- R155 (D6): with the structure it needs full, an instruction stages nothing at all. -/
def Obligations.FullStructureStalls : Prop :=
  ∀ (i : Instr) (s : State),
    (usesStation i = true → (∀ e ∈ s.cur.rs, e.empty = false) → exec i s = .next s)
    ∧ (usesQueue i = true → s.cur.lsqFull s.cfg = true → exec i s = .next s)

/-- The frame of every instruction's meaning (R11, R133, R161 to R173): what no dispatch changes, and what only the
named instructions change. -/
def Obligations.DispatchFrame : Prop :=
  ∀ (i : Instr) (s t : State), exec i s = .next t →
    t.cfg = s.cfg ∧ t.cur = s.cur ∧ t.status = s.status
    ∧ (∀ a : Word, readByte t.mem a = readByte s.mem a)
    ∧ (∀ r : Reg, (slotGet t.nxt.reg r).value = (slotGet s.nxt.reg r).value)
    ∧ (∀ r : Reg, destReg s.cfg.auipcMode i ≠ some r → slotGet t.nxt.reg r = slotGet s.nxt.reg r)
    ∧ slotGet t.nxt.reg 0#5 = slotGet s.nxt.reg 0#5
    ∧ (∀ k : Slot, k ≠ s.cur.robTail → slotGet t.nxt.rob k = slotGet s.nxt.rob k)
    ∧ (usesStation i = false → t.nxt.rs = s.nxt.rs)
    ∧ (usesQueue i = false → t.nxt.lsq = s.nxt.lsq ∧ t.nxt.lsqTail = s.nxt.lsqTail)
    ∧ (i ≠ .endProg → t.nxt.fetchStopped = s.nxt.fetchStopped)
    ∧ ((∀ rd rs1 imm, i ≠ .jalr rd rs1 imm) → t.nxt.jalrWait = s.nxt.jalrWait)
    ∧ t.nxt.robHead = s.nxt.robHead ∧ t.nxt.fu = s.nxt.fu ∧ t.nxt.lsqHead = s.nxt.lsqHead
    ∧ t.nxt.lsqInflight = s.nxt.lsqInflight ∧ t.nxt.lsqCount = s.nxt.lsqCount ∧ t.nxt.pred = s.nxt.pred
    ∧ t.nxt.predCorrect = s.nxt.predCorrect ∧ t.nxt.predIncorrect = s.nxt.predIncorrect
    ∧ t.nxt.clock = s.nxt.clock

/-- R347, R348, R400: a source register is resolved to the value of its youngest uncommitted writer, or to that
writer's slot while the value is not there; with no such writer, to the committed value. -/
def Obligations.ResolveReadsYoungestProducer : Prop :=
  ∀ (s : State) (r : Reg), Inv s →
    resolve s 0#5 = .value 0#32
    ∧ ((∀ t, ¬ s.cur.produces t r) → resolve s r = .value (slotGet s.cur.reg r).value)
    ∧ ∀ t, r ≠ 0#5 → s.cur.produces t r →
        (∀ t', s.cur.produces t' r → s.cur.robAge t' ≤ s.cur.robAge t) →
        resolve s r
          = if (slotGet s.cur.rob t).ready then .value (slotGet s.cur.rob t).value else .wait t

/-! ### The fetch step -/

/-- R150, R154: the first of the four cases that applies; the word is decoded, and a decode failure is Fatal in this
cycle. The four bytes lie below `MEM_SIZE` (R70; where one does not, see `HowARunEnds`) and at addresses modulo 2^32
(R64): both are the spec's choice D20 (log entry 21). -/
def Obligations.FetchStepCases : Prop :=
  ∀ s : State,
    (s.cur.fetchStopped = true → fetchStep s = .next s)
    ∧ (s.cur.fetchStopped = false → s.cur.jalrWait.valid = true → fetchStep s = .next (resolveJalr s))
    ∧ (s.cur.fetchStopped = false → s.cur.jalrWait.valid = false → s.cur.robFull = true → fetchStep s = .next s)
    ∧ (s.cur.fetchStopped = false → s.cur.jalrWait.valid = false → s.cur.robFull = false →
        (∀ j < 4, (s.cur.pc + BitVec.ofNat 32 j).toNat < s.cfg.memSize) →
        (∀ i, decode s.cfg.endWord (memRead4 s.mem s.cur.pc) = .ok i → fetchStep s = exec i s)
        ∧ ∀ e, decode s.cfg.endWord (memRead4 s.mem s.cur.pc) = .error e →
            fetchStep s = .fault (.fatal (.decodeError (memRead4 s.mem s.cur.pc))))

/-- R75, R78 (D20, D21: log entries 12 and 21): fetch is not coherent with the queue. The word fetched in a cycle has
the bytes of the store performed in that cycle where the two meet, and otherwise the bytes memory held before it,
whatever stores still wait in the queue; no load and no start of an access changes it. -/
def Obligations.FetchSeesStoresOnlyWhenPerformed : Prop :=
  ∀ s s1 : State, Memory.wf s.mem → lsqStep (beginCycle s) = .next s1 →
    let h := s.cur.lsqAt s.cur.lsqHead
    let a := h.base + h.offset
    ∀ i < 4,
      (∀ j < h.type.bytes, s.cur.performs = true → h.type.isStore = true →
        s.cur.pc + BitVec.ofNat 32 i = a + BitVec.ofNat 32 j →
        (fetchWord s1).extractLsb' (8 * i) 8 = h.value.extractLsb' (8 * j) 8)
      ∧ ((s.cur.performs = true → h.type.isStore = true →
          ∀ j < h.type.bytes, s.cur.pc + BitVec.ofNat 32 i ≠ a + BitVec.ofNat 32 j) →
        (fetchWord s1).extractLsb' (8 * i) 8 = readByte s.mem (s.cur.pc + BitVec.ofNat 32 i))

/-- R152 (D38, D8): a pending JALR stalls fetching until its producer is ready, then fetching resumes at the target. -/
def Obligations.PendingJalrResolution : Prop :=
  ∀ s : State, s.cur.fetchStopped = false → s.cur.jalrWait.valid = true →
    let p := slotGet s.cur.rob s.cur.jalrWait.q
    (p.ready = false → fetchStep s = .next s)
    ∧ (p.ready = true → fetchStep s = .next
        { s with
          nxt.pc := (p.value + s.cur.jalrWait.imm) &&& 0xFFFFFFFE#32
          nxt.jalrWait := { s.nxt.jalrWait with valid := false } })

/-! ### The reservation station and the units -/

/-- R197 (D11, D12): an entry that wants a unit gets the free unit of its class whose place in the scan is the number
of contenders before it; that unit accepts `Execute` of its operands; without such a unit the entry waits. -/
def Obligations.IssueInScanOrder : Prop :=
  ∀ (s : State) (k : Nat), s.nxt.rs.length = s.cur.rs.length → k < s.cur.rs.length →
    (s.cur.rsAt k).issuable = true →
    let e := s.cur.rsAt k
    let c := opClass e.op
    (∀ u, (s.cur.fu.freeUnits c)[contendersBelow s.cur c k]? = some u →
      (rsStep s).nxt.fu.unit c u
          = { busy := true, finished := true, result := execute e.op e.v1 e.v2, index := e.rob }
      ∧ ((rsStep s).nxt.rsAt k).issued = true)
    ∧ ((s.cur.fu.freeUnits c)[contendersBelow s.cur c k]? = none →
      ((rsStep s).nxt.rsAt k).issued = (s.nxt.rsAt k).issued)

/-- R198: an entry that is not freed in this cycle takes the value of each awaited producer that is ready, and is busy
while an operand is still missing; an entry's operation and RoB slot never change. -/
def Obligations.StationWakeup : Prop :=
  ∀ (s : State) (k : Nat), k < s.nxt.rs.length → s.nxt.rsAt k = s.cur.rsAt k →
    (s.cur.rsAt k).empty = false → (s.cur.rsAt k).harvested s.cur.fu = false →
    let e := s.cur.rsAt k
    let n := (rsStep s).nxt.rsAt k
    n.empty = false ∧ n.op = e.op ∧ n.rob = e.rob
    ∧ n.q1c = (e.q1c && !(slotGet s.cur.rob e.q1).ready)
    ∧ n.v1 = (if e.q1c && (slotGet s.cur.rob e.q1).ready then (slotGet s.cur.rob e.q1).value else e.v1)
    ∧ n.q2c = (e.q2c && !(slotGet s.cur.rob e.q2).ready)
    ∧ n.v2 = (if e.q2c && (slotGet s.cur.rob e.q2).ready then (slotGet s.cur.rob e.q2).value else e.v2)
    ∧ n.busy = (n.q1c || n.q2c)

/-- R200, R201: an operation accepted in a cycle is in its unit in the next one, with its RoB entry not yet ready, and
its result is in the RoB, the unit and the entry free, in the one after: unless a flush squashed it, two clock ticks
and not earlier. When the unit is free again is the spec's choice D13, the place in the scan D12 (log entry 13). -/
def Obligations.UnitLatencyIsTwoTicks : Prop :=
  ∀ (s s1 s2 : State) (k : Nat) (u : FuInst), Inv s →
    step s = .next s1 → step s1 = .next s2 → s1.status = .running → s2.status = .running →
    k < s.cur.rs.length → (s.cur.rsAt k).issuable = true →
    (s.cur.fu.freeUnits (opClass (s.cur.rsAt k).op))[contendersBelow s.cur (opClass (s.cur.rsAt k).op) k]?
      = some u →
    s1.cur.robOccupied (s.cur.rsAt k).rob = true → s2.cur.robOccupied (s.cur.rsAt k).rob = true →
    let e := s.cur.rsAt k
    let c := opClass e.op
    s1.cur.fu.unit c u = { busy := true, finished := true, result := execute e.op e.v1 e.v2, index := e.rob }
    ∧ (slotGet s1.cur.rob e.rob).ready = false
    ∧ (slotGet s2.cur.rob e.rob).ready = true
    ∧ (slotGet s2.cur.rob e.rob).value = execute e.op e.v1 e.v2
    ∧ (s2.cur.fu.unit c u).busy = false
    ∧ (s2.cur.rsAt k).empty = true

/-! ### The load/store queue -/

/-- R276: operand wake-up of an occupied slot; an unoccupied slot is left alone. -/
def Obligations.QueueWakeup : Prop :=
  ∀ (s : State) (i : Nat), i < s.nxt.lsq.length → s.nxt.lsqAt i = s.cur.lsqAt i →
    let e := s.cur.lsqAt i
    let n := (lsqWake s).nxt.lsqAt i
    let baseNow := e.basec && (slotGet s.cur.rob e.baseq).ready
    let valueNow := e.valuec && (slotGet s.cur.rob e.valueq).ready
    (s.cur.lsqOccupied s.cfg i = false → n = e)
    ∧ (s.cur.lsqOccupied s.cfg i = true → n =
        { e with
          base := if baseNow then (slotGet s.cur.rob e.baseq).value else e.base
          basec := e.basec && !baseNow
          ready := e.ready || (baseNow && e.type.isLoad)
          value := if valueNow then (slotGet s.cur.rob e.valueq).value else e.value
          valuec := e.valuec && !valueNow })

/-- R277 (D15): the RoB entry of every uncommitted store with both operands resolved is marked ready, and no other RoB
slot is touched by the report. -/
def Obligations.StoresReportToTheRob : Prop :=
  ∀ (s : State) (j : Slot),
    let reported := ∃ i < s.cfg.lsqSize, s.cur.lsqOccupied s.cfg i = true ∧ (s.cur.lsqAt i).type.isStore = true
      ∧ (s.cur.lsqAt i).basec = false ∧ (s.cur.lsqAt i).valuec = false ∧ (s.cur.lsqAt i).ready = false
      ∧ (s.cur.lsqAt i).rob = j
    (reported → slotGet (lsqWake s).nxt.rob j = { slotGet s.nxt.rob j with ready := true })
    ∧ (¬ reported → slotGet (lsqWake s).nxt.rob j = slotGet s.nxt.rob j)

/-- R280 (countdown: D14; delivery: D29; range: R70, D20; that the reason carries the first byte out of range is the
model's reading, log entry 7): the memory pipeline case by case. An access touches the
head entry's address `base + offset` only (R279): a load puts the extended value into its RoB entry and changes no
byte; a store writes the low bytes of its value there and changes no other byte and no register, RoB or queue entry. -/
def Obligations.MemoryPipelineCases : Prop :=
  ∀ s : State,
    let h := s.cur.lsqAt s.cur.lsqHead
    let a := h.base + h.offset
    (s.cur.lsqInflight = true → s.cur.lsqCount ≠ 0#2 →
      memPipeline s = .next { s with nxt.lsqCount := s.cur.lsqCount - 1#2 })
    ∧ (s.cur.performs = true → (∀ i < h.type.bytes, (a + BitVec.ofNat 32 i).toNat < s.cfg.memSize) →
      (h.type.isLoad = true → memPipeline s = .next
        { s with
          nxt.rob := slotSet s.nxt.rob h.rob
            { slotGet s.nxt.rob h.rob with value := loadedValue s.mem h.type a, ready := true }
          nxt.lsqHead := (s.cur.lsqHead + 1) % s.cfg.lsqSize
          nxt.lsqInflight := false })
      ∧ (h.type.isStore = true → ∃ m, memPipeline s = .next
          { s with
            mem := m
            nxt.lsqHead := (s.cur.lsqHead + 1) % s.cfg.lsqSize
            nxt.lsqInflight := false }
        ∧ (Memory.wf s.mem → ∀ i < h.type.bytes,
            readByte m (a + BitVec.ofNat 32 i) = h.value.extractLsb' (8 * i) 8)
        ∧ ∀ x : Word, (∀ i < h.type.bytes, x ≠ a + BitVec.ofNat 32 i) → readByte m x = readByte s.mem x))
    ∧ (s.cur.performs = true → ∀ i < h.type.bytes, s.cfg.memSize ≤ (a + BitVec.ofNat 32 i).toNat →
        (∀ j < i, (a + BitVec.ofNat 32 j).toNat < s.cfg.memSize) →
        memPipeline s = .fault (.fatal (.memRange (a + BitVec.ofNat 32 i).toNat)))
    ∧ (s.cur.lsqInflight = false → s.cur.lsqEmpty = false → h.ready = true →
      memPipeline s = .next { s with nxt.lsqInflight := true, nxt.lsqCount := 2#2 })
    ∧ (s.cur.lsqInflight = false → s.cur.lsqEmpty = true ∨ h.ready = false → memPipeline s = .next s)

/-- R73, R67, R72: in a whole step, a byte of memory changes only by the access of a committed store at the queue's
head, within that store's bytes, and every byte of such a store is then the stored one. -/
def Obligations.MemoryChangesOnlyByCommittedStores : Prop :=
  ∀ s t : State, Inv s → step s = .next t →
    let h := s.cur.lsqAt s.cur.lsqHead
    let a := h.base + h.offset
    (∀ x : Word, readByte t.mem x ≠ readByte s.mem x →
      s.cur.performs = true ∧ h.type.isStore = true ∧ h.ready = true
        ∧ ∃ i < h.type.bytes, x = a + BitVec.ofNat 32 i)
    ∧ (s.cur.performs = true → h.type.isStore = true → ∀ i < h.type.bytes,
        readByte t.mem (a + BitVec.ofNat 32 i) = h.value.extractLsb' (8 * i) 8)

/-! ### Commit -/

/-- R315, R317, R344 (D19, D27, D34): the commit of a RegisterWrite entry writes its register and pops; `dirty` is
cleared only if the register still depends on the committing slot and the fetch step of this cycle does not rename it;
register 0 is not written; everything else is unchanged. -/
def Obligations.RegisterWriteCommit : Prop :=
  ∀ s : State, s.cur.commits = true → s.cur.robHeadEntry.kind = .registerWrite →
    let e := s.cur.robHeadEntry
    let d : Reg := e.dest.setWidth 5
    let renamed := s.nxt.robTail ≠ s.cur.robTail ∧ (slotGet s.nxt.rob s.cur.robTail).kind = .registerWrite
      ∧ (slotGet s.nxt.rob s.cur.robTail).dest = d.setWidth 32
    ∃ t, commitStep s = .next t
      ∧ t = { s with nxt.robHead := s.cur.robHead + 1#5, nxt.reg := t.nxt.reg }
      ∧ (∀ r : Reg, (r ≠ d ∨ r = 0#5) → slotGet t.nxt.reg r = slotGet s.nxt.reg r)
      ∧ (d ≠ 0#5 → (slotGet t.nxt.reg d).value = e.value ∧ (slotGet t.nxt.reg d).dep = (slotGet s.nxt.reg d).dep
        ∧ ((slotGet s.cur.reg d).dep = s.cur.robHead → ¬ renamed → (slotGet t.nxt.reg d).dirty = false)
        ∧ ((slotGet s.cur.reg d).dep ≠ s.cur.robHead ∨ renamed →
            (slotGet t.nxt.reg d).dirty = (slotGet s.nxt.reg d).dirty))

/-- R318: the commit of a MemoryWrite entry authorises the store in the LSQ slot it names and pops; memory and
registers are not written here. The structural precondition it carries is R371's `InternalAssert`. -/
def Obligations.StoreCommit : Prop :=
  ∀ s : State, s.cur.commits = true → s.cur.robHeadEntry.kind = .memoryWrite →
    let i := s.cur.robHeadEntry.dest.toNat
    let uncommitted := s.cur.lsqOccupied s.cfg i = true ∧ (s.cur.lsqAt i).type.isStore = true
      ∧ (s.cur.lsqAt i).ready = false
    (uncommitted → commitStep s = .next
      { s with
        nxt.lsq := s.nxt.lsq.set i { s.nxt.lsqAt i with ready := true }
        nxt.robHead := s.cur.robHead + 1#5 })
    ∧ (¬ uncommitted → commitStep s = .fault (.fatal (.internalAssert .commitNotStore)))

/-- R319: the commit of a Branch entry updates the predictor with the real outcome in both cases; with the prediction
right the entry is popped, else the flush of R322 is staged and the entry is not popped by the normal path; no register
value and no memory is written. -/
def Obligations.BranchCommit : Prop :=
  ∀ s : State, s.cur.commits = true → s.cur.robHeadEntry.kind = .branch →
    let e := s.cur.robHeadEntry
    let actual := e.value != 0#32
    let trained := predUpdate e.baddr actual s
    (actual = e.predicted → commitStep s = .next { trained with nxt.robHead := s.cur.robHead + 1#5 })
    ∧ (actual ≠ e.predicted → commitStep s = .next (flushMispredicted e trained))
    ∧ ∃ t, commitStep s = .next t ∧ (∀ a : Word, readByte t.mem a = readByte s.mem a)
      ∧ ∀ r : Reg, (slotGet t.nxt.reg r).value = (slotGet s.nxt.reg r).value

/-- R346: the flush clears every dirty bit, overriding a rename of the same cycle, and leaves every value and `dep`
as they are. -/
def Obligations.FlushCleansTheAliasTable : Prop :=
  ∀ (e : RobEntry) (s : State) (r : Reg),
    slotGet (flushMispredicted e s).nxt.reg r = { slotGet s.nxt.reg r with dirty := false }

/-- R322, R283, R323, R375 (D17, D18, D25): after a cycle that commits a mispredicted branch the machine is empty of
everything younger: fetch restarts at the correct target, RoB, station and units are empty, no register is dirty, no
register value has changed, and the queue holds exactly the committed stores not yet performed. -/
def Obligations.MispredictionFlush : Prop :=
  ∀ s t : State, Inv s → step s = .next t → s.cur.commits = true → s.cur.robHeadEntry.kind = .branch →
    (s.cur.robHeadEntry.value != 0#32) ≠ s.cur.robHeadEntry.predicted →
    let e := s.cur.robHeadEntry
    t.cur.pc = (if e.value != 0#32 then e.dest else e.baddr + 4#32)
    ∧ t.cur.fetchStopped = false ∧ t.cur.jalrWait.valid = false
    ∧ t.cur.robHead = s.cur.robHead + 1#5 ∧ t.cur.robTail = s.cur.robHead + 1#5
    ∧ (∀ x ∈ t.cur.rs, x.empty = true)
    ∧ (∀ f ∈ t.cur.fu.units, f = Fu.idle)
    ∧ (∀ r : Reg, (slotGet t.cur.reg r).dirty = false
        ∧ (slotGet t.cur.reg r).value = (slotGet s.cur.reg r).value)
    ∧ (∀ i < s.cfg.lsqSize, t.cur.lsqOccupied s.cfg i = true ↔
        (s.cur.lsqOccupied s.cfg i = true ∧ (s.cur.lsqAt i).committedStore = true
          ∧ ¬ (i = s.cur.lsqHead ∧ s.cur.performs = true)))
    ∧ (∀ i < s.cfg.lsqSize, t.cur.lsqOccupied s.cfg i = true → t.cur.lsqAt i = s.cur.lsqAt i)
    ∧ (t.cur.lsqEmpty = true → t.cur.lsqInflight = false)

/-- R316 (D18): in a step that does not halt, the RoB head advances by exactly one when the head commits and stays
otherwise. -/
def Obligations.HeadAdvancesByOnePerCommit : Prop :=
  ∀ s t : State, step s = .next t → t.status = .running →
    t.cur.robHead = if s.cur.commits then s.cur.robHead + 1#5 else s.cur.robHead

/-- R317, R20: over a whole step, the commit of a RegisterWrite entry is the only way a general register changes, and
it gives exactly its destination the entry's value. -/
def Obligations.RegistersChangeOnlyByCommit : Prop :=
  ∀ s t : State, step s = .next t → ∀ r : Reg,
    (slotGet t.cur.reg r).value
      = if s.cur.commits = true ∧ s.cur.robHeadEntry.kind = .registerWrite
            ∧ s.cur.robHeadEntry.dest.setWidth 5 = r ∧ r ≠ 0#5
        then s.cur.robHeadEntry.value else (slotGet s.cur.reg r).value

/-- R321, R135 (D22, D28): the step that commits END halts with the low byte of the committed a0; nothing staged is
published and the clock stands; a memory write of the LSQ step of that cycle stands. -/
def Obligations.EndCommitHalts : Prop :=
  ∀ s s1 s2 : State, s.status = .running → s.cur.commits = true → s.cur.robHeadEntry.kind = .endProg →
    lsqStep (beginCycle s) = .next s1 → fetchStep s1 = .next s2 →
    step s = .next
      { cfg := s.cfg, cur := s.cur, nxt := s.cur, mem := s1.mem,
        status := .halted ((s.cur.regRead 10#5).setWidth 8) }

/-- R321: when END is at the head and commits, nothing else is in flight but committed stores in the queue. -/
def Obligations.HaltFindsTheMachineDrained : Prop :=
  ∀ s : State, Inv s → s.cur.commits = true → s.cur.robHeadEntry.kind = .endProg →
    s.cur.robCount = 1
    ∧ (∀ e ∈ s.cur.rs, e.empty = true)
    ∧ (∀ f ∈ s.cur.fu.units, f.busy = false)
    ∧ (∀ r : Reg, (slotGet s.cur.reg r).dirty = false)
    ∧ ∀ i < s.cfg.lsqSize, s.cur.lsqOccupied s.cfg i = true →
        (s.cur.lsqAt i).committedStore = true ∧ (s.cur.lsqAt i).basec = false ∧ (s.cur.lsqAt i).valuec = false

/-- R27, R135, R374, R376, R391: a step leads from Running to Running or Halted only; Halted and Fatal are terminal
until a reset, which keeps memory; a Fatal raised by the LSQ step or the fetch step ends the cycle before the commit
step is reached, so it wins over a halt or a flush of that cycle; a range failure of the fetch precedes the decoding of
its word. -/
def Obligations.HowARunEnds : Prop :=
  ∀ s : State,
    (∀ t, step s = .next t → s.status = .running ∧ (t.status = .running ∨ ∃ code, t.status = .halted code))
    ∧ (∀ code, s.status = .halted code → step s = .fault (.halted code))
    ∧ (∀ reason, s.status = .fatal reason → step s = .fault (.fatal reason))
    ∧ s.applyReset.status = .running ∧ s.applyReset.mem = s.mem
    ∧ (s.status = .running →
      (∀ f, lsqStep (beginCycle s) = .fault f → step s = .fault f)
      ∧ ∀ s1, lsqStep (beginCycle s) = .next s1 →
        (∀ f, fetchStep s1 = .fault f → step s = .fault f)
        ∧ (s.cur.fetchStopped = false → s.cur.jalrWait.valid = false → s.cur.robFull = false →
          ∀ i < 4, s.cfg.memSize ≤ (s.cur.pc + BitVec.ofNat 32 i).toNat →
          (∀ j < i, (s.cur.pc + BitVec.ofNat 32 j).toNat < s.cfg.memSize) →
          step s = .fault (.fatal (.memRange (s.cur.pc + BitVec.ofNat 32 i).toNat))))

/-! ### The branch predictor -/

/-- R355 to R358 (D24): the bucket is chosen by the low 12 bits of the address; an update counts the prediction looked
up now, overwrites the pattern entry at the old history and shifts the outcome into it; every other bucket is
unchanged. -/
def Obligations.PredictorUpdate : Prop :=
  ∀ (s : State) (a : Word) (actual : Bool), Predictor.Wf s.cur.pred → s.nxt.pred = s.cur.pred →
    let b := a.toNat % 4096
    let old := s.cur.pred.bucket b
    let t := predUpdate a actual s
    let new := t.nxt.pred.bucket b
    predict s a = old.pattern[old.hist.toNat]'(old.hist.isLt)
    ∧ new.hist = (old.hist <<< 1) ||| (if actual then 1#4 else 0#4)
    ∧ (∀ g : BitVec 4, new.look g = if g = old.hist then actual else old.look g)
    ∧ (∀ j : Nat, j ≠ b → t.nxt.pred.bucket j = s.cur.pred.bucket j)
    ∧ (predict s a = actual →
        t.nxt.predCorrect = s.cur.predCorrect + 1 ∧ t.nxt.predIncorrect = s.nxt.predIncorrect)
    ∧ (predict s a ≠ actual →
        t.nxt.predIncorrect = s.cur.predIncorrect + 1 ∧ t.nxt.predCorrect = s.nxt.predCorrect)

/-- R359: the accuracy is a number only when some branch has committed. -/
def Obligations.AccuracyIsPartial : Prop :=
  ∀ s : State,
    (s.cur.predCorrect + s.cur.predIncorrect = 0 → getAccuracy s = .notApplicable)
    ∧ (s.cur.predCorrect + s.cur.predIncorrect > 0 → getAccuracy s
        = .ratio ((s.cur.predCorrect : Rat) / ((s.cur.predCorrect + s.cur.predIncorrect : Nat) : Rat)))

/-! ### The cycle -/

/-- R130, R131: a cycle that goes on is the four unit steps in their order, every one of them leaving the current copy
as it found it, then the publish of everything staged, with the clock advanced by one. -/
def Obligations.CycleOrderAndPublish : Prop :=
  ∀ s s1 s2 s3 : State, s.status = .running → lsqStep { s with nxt := s.cur } = .next s1 →
    fetchStep s1 = .next s2 → commitStep (rsStep s2) = .next s3 → s3.status = .running →
    s1.cur = s.cur ∧ s2.cur = s.cur ∧ (rsStep s2).cur = s.cur ∧ s3.cur = s.cur
    ∧ step s = .next
        { cfg := s3.cfg, cur := { s3.nxt with clock := s.cur.clock + 1 },
          nxt := { s3.nxt with clock := s.cur.clock + 1 }, mem := s3.mem, status := .running }

/-- R130, R150, R154: a step runs the instruction it decodes, when its four bytes lie below `MEM_SIZE` (R70, D20). The
LSQ step goes first and may have written memory (R75), so the bytes are those after it; when it performs no access they
are those before it. -/
def Obligations.StepRunsTheDecodedInstruction : Prop :=
  ∀ (s s1 : State) (i : Instr), s.status = .running → s.cur.fetchStopped = false →
    s.cur.jalrWait.valid = false → s.cur.robFull = false →
    (∀ j < 4, (s.cur.pc + BitVec.ofNat 32 j).toNat < s.cfg.memSize) →
    lsqStep (beginCycle s) = .next s1 → decode s.cfg.endWord (memRead4 s1.mem s.cur.pc) = .ok i →
    step s = bindNext (exec i s1) (fun s2 => bindNext (commitStep (rsStep s2)) fun s3 => .next (endCycle s3))
    ∧ (s.cur.performs = false → s1.mem = s.mem)

/-- R130, R131: a published cycle makes the two copies agree and advances the clock by one. The other clauses are choices:
that the halting step publishes nothing, leaves the clock and sets the next copy equal to the current one is the spec's
D22 (R135; log entry 22), that the parameters stand in State and no step writes them is the model's (log entry 6), and
that the clock is an unbounded number is the spec's D32 (R45; log entry 20). -/
def Obligations.ClockCountsPublishedCycles : Prop :=
  ∀ s t : State, step s = .next t →
    t.cfg = s.cfg ∧ t.nxt = t.cur
    ∧ (t.status = .running → t.cur.clock = s.cur.clock + 1)
    ∧ (t.status ≠ .running → t.cur = s.cur)

/-! ### Reset and invariants -/

/-- R47, R390 and the defaults of R7. The document gives no reset value: these are the spec's decisions D1 to D5, D7,
D20 (log entries 1 and 3). -/
def Obligations.ResetValues : Prop :=
  let s := State.reset
  s.status = .running ∧ s.mem = [] ∧ s.cur = s.nxt ∧ s.cur.pc = 0#32 ∧ s.cur.fetchStopped = false
  ∧ s.cur.jalrWait = ⟨false, 0#5, 0#32⟩
  ∧ (∀ r : Reg, slotGet s.cur.reg r = ⟨0#32, false, 0#5⟩)
  ∧ (∀ k : Slot, slotGet s.cur.rob k = ⟨false, false, .registerWrite, 0#32, 0#32, 0#32⟩)
  ∧ s.cur.robHead = 0#5 ∧ s.cur.robTail = 0#5
  ∧ s.cur.rs.length = 32
  ∧ (∀ e ∈ s.cur.rs, e = ⟨true, false, false, .addi, false, 0#5, 0#32, false, 0#5, 0#32, 0#5⟩)
  ∧ (∀ f ∈ s.cur.fu.units, f = ⟨false, false, 0#32, 0#5⟩)
  ∧ s.cur.lsq.length = 32
  ∧ (∀ e ∈ s.cur.lsq, e = ⟨false, false, 0#5, false, 0#5, .lb, 0#32, 0#32, 0#32, 0#5⟩)
  ∧ s.cur.lsqHead = 0 ∧ s.cur.lsqTail = 0 ∧ s.cur.lsqInflight = false
  ∧ s.cur.lsqCount = 0#2
  ∧ (∀ b : Nat, (s.cur.pred.bucket b).hist = 0#4 ∧ ∀ g : BitVec 4, (s.cur.pred.bucket b).look g = false)
  ∧ s.cur.predCorrect = 0 ∧ s.cur.predIncorrect = 0 ∧ s.cur.clock = 0
  ∧ s.cfg = ⟨0x0FF00513#32, 0x00000000#32, 32, 32, 2 ^ 32, .pcPlusImmNoWrite⟩

/-- R46: the invariant holds after reset, whatever valid parameters the machine has and whatever canonical memory the
host has loaded (R391, R397). -/
def Obligations.ResetEstablishesInv : Prop :=
  ∀ s : State, s.cfg.Valid → Memory.wf s.mem → Inv s.applyReset

/-- Every step keeps memory and the predictor's table in their canonical forms, from any state. The sorted list with
no default entry is the model's own representation of the memory and the 4096 buckets (log entry 23; what an unlisted
byte reads as: log entry 4), not the spec's. -/
def Obligations.StepKeepsCanonicalForms : Prop :=
  ∀ s t : State, Memory.wf s.mem → Predictor.Wf s.cur.pred → step s = .next t →
    Memory.wf t.mem ∧ Predictor.Wf t.cur.pred

/-- R345, R347 (R46 e): every step keeps the alias table exact: register 0 reads 0 and is never dirty, and a register
is dirty exactly when some uncommitted RegisterWrite entry names it, `dep` being then the youngest. -/
def Obligations.StepKeepsTheAliasTable : Prop :=
  ∀ s t : State, ZeroOk s.cur → RatOk s.cur → step s = .next t → ZeroOk t.cur ∧ RatOk t.cur

/-- R46, with R29, R198, R311, R313, R321, R345, R347: every step keeps the whole invariant. -/
def Obligations.StepKeepsInv : Prop :=
  ∀ s t : State, Inv s → step s = .next t → Inv t

/-- R134, R371: from a state with the invariant a running step answers a next state, or is Fatal on a word it could
not decode, or, under a reduced `MEM_SIZE`, on an address beyond it; no internal assertion fails and nothing is
refused. -/
def Obligations.StepOutcomes : Prop :=
  ∀ s : State, Inv s → s.status = .running →
    (∃ t, step s = .next t)
    ∨ (∃ w e, decode s.cfg.endWord w = .error e ∧ step s = .fault (.fatal (.decodeError w)))
    ∨ ∃ a : Nat, s.cfg.memSize ≤ a ∧ a < 2 ^ 32 ∧ step s = .fault (.fatal (.memRange a))

/-- R313: an entry that stays in the RoB over a step keeps its kind and destination, and once ready it stays ready
with its value; a RegisterWrite or Branch entry becomes ready only with the result of a finished unit or of the load
performed in this cycle, a MemoryWrite entry only by a store whose operands are resolved. -/
def Obligations.HowAnEntryBecomesReady : Prop :=
  ∀ (s t : State) (k : Slot), Inv s → step s = .next t → t.status = .running →
    s.cur.robOccupied k = true → t.cur.robOccupied k = true →
    let e := slotGet s.cur.rob k
    let n := slotGet t.cur.rob k
    n.kind = e.kind ∧ n.dest = e.dest ∧ n.baddr = e.baddr ∧ n.predicted = e.predicted
    ∧ (e.ready = true → n.ready = true ∧ n.value = e.value)
    ∧ (e.ready = false → n.ready = true →
        (∃ c u, (s.cur.fu.unit c u).finished = true ∧ (s.cur.fu.unit c u).index = k
            ∧ n.value = (s.cur.fu.unit c u).result ∧ (e.kind = .registerWrite ∨ e.kind = .branch))
        ∨ (s.cur.performs = true ∧ (s.cur.lsqAt s.cur.lsqHead).type.isLoad = true
            ∧ (s.cur.lsqAt s.cur.lsqHead).rob = k ∧ e.kind = .registerWrite
            ∧ n.value = loadedValue s.mem (s.cur.lsqAt s.cur.lsqHead).type (s.cur.lsqAt s.cur.lsqHead).addr)
        ∨ (e.kind = .memoryWrite ∧ ∃ i < s.cfg.lsqSize, s.cur.lsqOccupied s.cfg i = true
            ∧ (s.cur.lsqAt i).rob = k ∧ (s.cur.lsqAt i).basec = false ∧ (s.cur.lsqAt i).valuec = false))

/-! ### Runs of one instruction from a quiet machine, to the halt on the END after it -/

/-- R160, R161, R166, R167, R168, R321, R406: END alone halts in the second cycle, and the other instructions
resolved in the fetch unit have their architectural effect when the END after them halts, in the third. -/
def Obligations.FetchUnitInstructionsRun : Prop :=
  (∀ s : State, SoloProgram s .endProg → HaltsAs 2 s s.arch)
  ∧ ∀ (s : State) (rd rs1 : Reg) (immI : BitVec 12) (immU : BitVec 20) (immJ : BitVec 21) (i : Instr),
    i ∈ [.lui rd immU, .auipc rd immU, .jal rd immJ, .jalr rd rs1 immI] → SoloProgram s i →
    HaltsAs 3 s (archEffect s.cfg.auipcMode i s.arch)

/-- R220, R223 to R241, R406: the 19 computational instructions. -/
def Obligations.ComputationalInstructionsRun : Prop :=
  ∀ (s : State) (rd rs1 rs2 : Reg) (imm : BitVec 12) (shamt : BitVec 5) (i : Instr),
    i ∈ [.addi rd rs1 imm, .slti rd rs1 imm, .sltiu rd rs1 imm, .xori rd rs1 imm, .ori rd rs1 imm,
      .andi rd rs1 imm, .slli rd rs1 shamt, .srli rd rs1 shamt, .srai rd rs1 shamt] ++
      [.add rd rs1 rs2, .sub rd rs1 rs2, .sll rd rs1 rs2, .slt rd rs1 rs2, .sltu rd rs1 rs2, .xor rd rs1 rs2,
      .srl rd rs1 rs2, .sra rd rs1 rs2, .or rd rs1 rs2, .and rd rs1 rs2] → SoloProgram s i →
    HaltsAs 5 s (archEffect s.cfg.auipcMode i s.arch)

/-- R250, R257, R324, R406: the six branches, with END on both paths: five cycles when the prediction is right, six
with the flush. -/
def Obligations.BranchesRun : Prop :=
  ∀ (s : State) (rs1 rs2 : Reg) (imm : BitVec 13) (i : Instr) (op : RsOp),
    (i, op) ∈ [(.beq rs1 rs2 imm, .beq), (.bne rs1 rs2 imm, .bne), (.blt rs1 rs2 imm, .blt),
      (.bge rs1 rs2 imm, .bge), (.bltu rs1 rs2 imm, .bltu), (.bgeu rs1 rs2 imm, .bgeu)] → SoloProgram s i →
    memRead4 s.mem (s.cur.pc + 4#32) = s.cfg.endWord →
    memRead4 s.mem (s.cur.pc + imm.signExtend 32) = s.cfg.endWord →
    let taken := execute op (s.arch.read rs1) (s.arch.read rs2) != 0#32
    HaltsAs (if predict s s.cur.pc = taken then 5 else 6) s (archEffect s.cfg.auipcMode i s.arch)

/-- R285 to R289, R281, R406: the five loads. -/
def Obligations.LoadsRun : Prop :=
  ∀ (s : State) (rd rs1 : Reg) (imm : BitVec 12) (i : Instr),
    i ∈ [.lb rd rs1 imm, .lh rd rs1 imm, .lw rd rs1 imm, .lbu rd rs1 imm, .lhu rd rs1 imm] → SoloProgram s i →
    HaltsAs 7 s (archEffect s.cfg.auipcMode i s.arch)

/-- R290 to R292, R321, R406: the three stores, where they do not overwrite the END fetched after them (R402, D21: the
spec excludes a program that fetches what it has stored). The store is committed and still queued at the halt, so the
memory is `final_memory`: the stored bytes hold the value, every other byte is as before. -/
def Obligations.StoresRun : Prop :=
  ∀ (s : State) (rs1 rs2 : Reg) (imm : BitVec 12) (i : Instr),
    i ∈ [.sb rs1 rs2 imm, .sh rs1 rs2 imm, .sw rs1 rs2 imm] → SoloProgram s i →
    HaltsAs 4 s (archEffect s.cfg.auipcMode i s.arch)
    ∧ ∀ x : Word, x ∉ storedBytes i s.arch →
        readByte (archEffect s.cfg.auipcMode i s.arch).mem x = readByte s.mem x

/-- R405 (its conditions (ii), (iii) and `final_memory` are the spec's own, C8, D22): a program the reference
interpreter runs to END gives the same exit code, registers and memory on the core, whatever the sizes of its
buffers. -/
def Obligations.SequentialEquivalence : Prop :=
  ∀ (c : Config) (image : List (Word × Byte)) (n : Nat) (a : Arch) (code : BitVec 8), c.Valid →
    let start := (State.resetWith c).loadImage image
    seqRun c n start.arch = .next a → seqStep c a = .stop code → NeverFetchesStored c start.arch →
    (∀ m reason, Sys2Proof.core.run m start ≠ .fault (.fatal reason)) →
    ∃ m t, Sys2Proof.core.run m start = .next t ∧ t.status = .halted code ∧ t.arch.x = a.x
      ∧ finalMemory t = a.mem

end
end

