-- ==== Sys2Proof/Laws/Tables.lean ====
section
/-! SUPPORT. Laws of the tables of 32 slots and of the sparse tables behind memory and the predictor. -/

namespace Sys2Proof.Machine

/-! ### Tables of 32 slots -/

@[simp] theorem slotGet_slotSet_same {α : Type} (t : Vector α 32) (i : BitVec 5) (a : α) :
    slotGet (slotSet t i a) i = a := by
  simp [slotGet, slotSet]

theorem slotGet_slotSet_ne {α : Type} (t : Vector α 32) {i j : BitVec 5} (a : α) (h : j ≠ i) :
    slotGet (slotSet t i a) j = slotGet t j := by
  have hn : i.toNat ≠ j.toNat := fun e => h (BitVec.eq_of_toNat_eq e.symm)
  simp [slotGet, slotSet, hn]

theorem slotGet_slotSet {α : Type} (t : Vector α 32) (i j : BitVec 5) (a : α) :
    slotGet (slotSet t i a) j = if j = i then a else slotGet t j := by
  split
  · next h => subst h; simp
  · next h => exact slotGet_slotSet_ne t a h

@[simp] theorem slotGet_slotMap {α : Type} (f : α → α) (t : Vector α 32) (i : BitVec 5) :
    slotGet (slotMap f t) i = f (slotGet t i) := by
  simp [slotGet, slotMap]

@[simp] theorem slotGet_replicate {α : Type} (a : α) (i : BitVec 5) :
    slotGet (Vector.replicate 32 a) i = a := by
  simp [slotGet]

/-- Two tables with the same slots are equal. -/
theorem slot_ext {α : Type} {t u : Vector α 32} (h : ∀ i, slotGet t i = slotGet u i) : t = u := by
  apply Vector.ext
  intro n hn
  have := h (BitVec.ofNat 5 n)
  simpa [slotGet, Nat.mod_eq_of_lt hn] using this

/-! ### Sparse tables -/

/-- Keys rise and no entry is the unlisted value. -/
def SparseOk {α : Type} (d : α) (l : List (Nat × α)) : Prop :=
  l.Pairwise (fun a b => a.1 < b.1) ∧ ∀ c ∈ l, c.2 ≠ d

theorem SparseOk.tail {α : Type} {d : α} {c : Nat × α} {l : List (Nat × α)} (h : SparseOk d (c :: l)) :
    SparseOk d l :=
  ⟨(List.pairwise_cons.mp h.1).2, fun x hx => h.2 x (List.mem_cons_of_mem _ hx)⟩

theorem sparseGet_of_lt {α : Type} {d : α} {l : List (Nat × α)} {a : Nat} (h : ∀ c ∈ l, a < c.1) :
    sparseGet d l a = d := by
  induction l with
  | nil => rfl
  | cons c t ih =>
    have hc : a ≠ c.1 := Nat.ne_of_lt (h c (List.mem_cons_self ..))
    simp [sparseGet, hc, ih fun x hx => h x (List.mem_cons_of_mem _ hx)]

/-- A write leaves every other key alone, in any list. -/
theorem sparseGet_sparsePut_ne {α : Type} [DecidableEq α] (d : α) (l : List (Nat × α)) {a b : Nat} (x : α)
    (h : b ≠ a) : sparseGet d (sparsePut d l a x) b = sparseGet d l b := by
  induction l with
  | nil =>
    unfold sparsePut
    split <;> simp [sparseGet, h]
  | cons c t ih =>
    unfold sparsePut
    split
    · split <;> simp [sparseGet, h]
    · split
      · next hac => subst hac; split <;> simp [sparseGet, h]
      · simp [sparseGet, ih]

/-- A read after a write of the same key gives the value written, in a canonical list. -/
theorem sparseGet_sparsePut_same {α : Type} [DecidableEq α] {d : α} {l : List (Nat × α)} (h : SparseOk d l)
    (a : Nat) (x : α) : sparseGet d (sparsePut d l a x) a = x := by
  induction l with
  | nil =>
    unfold sparsePut
    split <;> simp_all [sparseGet]
  | cons c t ih =>
    have hlt := (List.pairwise_cons.mp h.1).1
    unfold sparsePut
    split
    · next hac =>
      split
      · next hx =>
        subst hx
        apply sparseGet_of_lt
        intro y hy
        rcases List.mem_cons.mp hy with rfl | hy
        · exact hac
        · exact Nat.lt_trans hac (hlt y hy)
      · simp [sparseGet]
    · split
      · next hac =>
        subst hac
        split
        · next hx => subst hx; exact sparseGet_of_lt hlt
        · simp [sparseGet]
      · next hac => simp [sparseGet, hac, ih h.tail]

/-- Every entry of the written table is an old entry or the new one. -/
theorem mem_sparsePut {α : Type} [DecidableEq α] {d : α} {l : List (Nat × α)} {a : Nat} {x : α}
    {c : Nat × α} (h : c ∈ sparsePut d l a x) : c ∈ l ∨ (c = (a, x) ∧ x ≠ d) := by
  induction l with
  | nil =>
    unfold sparsePut at h
    split at h <;> simp_all
  | cons e t ih =>
    unfold sparsePut at h
    split at h
    · split at h
      · exact .inl h
      · rcases List.mem_cons.mp h with rfl | h
        · exact .inr ⟨rfl, ‹_›⟩
        · exact .inl h
    · split at h
      · split at h
        · exact .inl (List.mem_cons_of_mem _ h)
        · rcases List.mem_cons.mp h with rfl | h
          · exact .inr ⟨rfl, ‹_›⟩
          · exact .inl (List.mem_cons_of_mem _ h)
      · rcases List.mem_cons.mp h with rfl | h
        · exact .inl (List.mem_cons_self ..)
        · rcases ih h with h | h
          · exact .inl (List.mem_cons_of_mem _ h)
          · exact .inr h

/-- A write keeps the canonical form. -/
theorem sparsePut_ok {α : Type} [DecidableEq α] {d : α} {l : List (Nat × α)} (h : SparseOk d l) (a : Nat) (x : α) :
    SparseOk d (sparsePut d l a x) := by
  refine ⟨?_, fun c hc => ?_⟩
  · induction l with
    | nil =>
      unfold sparsePut
      split <;> simp
    | cons e t ih =>
      have hlt := (List.pairwise_cons.mp h.1).1
      unfold sparsePut
      split
      · next hae =>
        split
        · exact h.1
        · refine List.pairwise_cons.mpr ⟨fun y hy => ?_, h.1⟩
          rcases List.mem_cons.mp hy with rfl | hy
          · exact hae
          · exact Nat.lt_trans hae (hlt y hy)
      · split
        · next hae =>
          subst hae
          split
          · exact h.tail.1
          · exact List.pairwise_cons.mpr ⟨hlt, h.tail.1⟩
        · next hlt' hne =>
          refine List.pairwise_cons.mpr ⟨fun y hy => ?_, ih h.tail⟩
          rcases mem_sparsePut hy with hy | ⟨rfl, -⟩
          · exact hlt y hy
          · show e.1 < a
            omega
  · rcases mem_sparsePut hc with hc | ⟨rfl, hx⟩
    · exact h.2 c hc
    · exact hx

/-- Canonical tables that read alike are equal. -/
theorem sparse_ext {α : Type} [DecidableEq α] {d : α} {l m : List (Nat × α)} (hl : SparseOk d l) (hm : SparseOk d m)
    (h : ∀ a, sparseGet d l a = sparseGet d m a) : l = m := by
  induction l generalizing m with
  | nil =>
    cases m with
    | nil => rfl
    | cons c t =>
      have := h c.1
      simp only [sparseGet, if_true] at this
      exact absurd this.symm (hm.2 c (List.mem_cons_self ..))
  | cons c t ih =>
    cases m with
    | nil =>
      have := h c.1
      simp only [sparseGet, if_true] at this
      exact absurd this (hl.2 c (List.mem_cons_self ..))
    | cons e u =>
      have hlt := (List.pairwise_cons.mp hl.1).1
      have hmu := (List.pairwise_cons.mp hm.1).1
      have hkey : c.1 = e.1 := by
        rcases Nat.lt_trichotomy c.1 e.1 with hh | hh | hh
        · have h1 := h c.1
          have h2 : sparseGet d (e :: u) c.1 = d := by
            apply sparseGet_of_lt
            intro y hy
            rcases List.mem_cons.mp hy with rfl | hy
            · exact hh
            · exact Nat.lt_trans hh (hmu y hy)
          rw [h2] at h1
          simp only [sparseGet, if_true] at h1
          exact absurd h1 (hl.2 c (List.mem_cons_self ..))
        · exact hh
        · have h1 := h e.1
          have h2 : sparseGet d (c :: t) e.1 = d := by
            apply sparseGet_of_lt
            intro y hy
            rcases List.mem_cons.mp hy with rfl | hy
            · exact hh
            · exact Nat.lt_trans hh (hlt y hy)
          rw [h2] at h1
          simp only [sparseGet, if_true] at h1
          exact absurd h1.symm (hm.2 e (List.mem_cons_self ..))
      have hval : c.2 = e.2 := by
        have := h c.1
        simpa [sparseGet, hkey] using this
      have hce : c = e := Prod.ext hkey hval
      subst hce
      congr 1
      apply ih hl.tail hm.tail
      intro a
      by_cases ha : a = c.1
      · subst ha
        rw [sparseGet_of_lt hlt, sparseGet_of_lt hmu]
      · have := h a
        simpa [sparseGet, ha] using this

end Sys2Proof.Machine
end

