-- ==== Sys2Proof/Laws/Memory.lean ====
section
/-! SUPPORT. Laws of memory and of the predictor's table: every operation keeps the canonical form, a write is read
back where it was made and changes nothing elsewhere. -/

namespace Sys2Proof.Machine

theorem Memory.wf_iff (m : Memory) :
    Memory.wf m ↔ SparseOk Memory.unlisted m ∧ ∀ c ∈ m, c.1 < 2 ^ 32 := by
  constructor
  · intro h
    exact ⟨⟨h.1, fun c hc => (h.2 c hc).2⟩, fun c hc => (h.2 c hc).1⟩
  · intro h
    exact ⟨h.1.1, fun c hc => ⟨h.2 c hc, h.1.2 c hc⟩⟩

theorem Memory.wf.sparse {m : Memory} (h : Memory.wf m) : SparseOk Memory.unlisted m := ((Memory.wf_iff m).mp h).1

theorem Memory.wf_nil : Memory.wf [] := by simp [Memory.wf]

theorem writeByte_wf {m : Memory} (h : Memory.wf m) (a : Word) (v : Byte) : Memory.wf (writeByte m a v) := by
  rw [Memory.wf_iff] at h ⊢
  refine ⟨sparsePut_ok h.1 _ _, fun c hc => ?_⟩
  rcases mem_sparsePut hc with hc | ⟨rfl, -⟩
  · exact h.2 c hc
  · exact a.isLt

@[simp] theorem readByte_writeByte_same {m : Memory} (h : Memory.wf m) (a : Word) (v : Byte) :
    readByte (writeByte m a v) a = v :=
  sparseGet_sparsePut_same h.sparse _ _

theorem readByte_writeByte_ne (m : Memory) {a b : Word} (v : Byte) (h : b ≠ a) :
    readByte (writeByte m a v) b = readByte m b :=
  sparseGet_sparsePut_ne _ _ _ fun e => h (BitVec.eq_of_toNat_eq e)

theorem memWrite_wf {m : Memory} (h : Memory.wf m) (a : Word) (n : Nat) (v : Word) :
    Memory.wf (memWrite m a n v) := by
  induction n with
  | zero => exact h
  | succ n ih => exact writeByte_wf ih _ _

/-- A byte outside the written range is unchanged, in any memory. -/
theorem readByte_memWrite_outside (m : Memory) (a : Word) (n : Nat) (v : Word) {b : Word}
    (h : ∀ i < n, b ≠ a + BitVec.ofNat 32 i) : readByte (memWrite m a n v) b = readByte m b := by
  induction n with
  | zero => rfl
  | succ n ih =>
    rw [memWrite, readByte_writeByte_ne _ _ (h n (Nat.lt_succ_self n))]
    exact ih fun i hi => h i (Nat.lt_succ_of_lt hi)

theorem add_ofNat_inj {a : Word} {i j : Nat} (hi : i < 2 ^ 32) (hj : j < 2 ^ 32)
    (h : a + BitVec.ofNat 32 i = a + BitVec.ofNat 32 j) : i = j := by
  have h2 : BitVec.ofNat 32 i = BitVec.ofNat 32 j := by simpa using h
  have h3 := congrArg BitVec.toNat h2
  simp only [BitVec.toNat_ofNat] at h3
  omega

theorem storeEffect_wf {m : Memory} (h : Memory.wf m) (e : LsqEntry) : Memory.wf (storeEffect e m) :=
  memWrite_wf h _ _ _

theorem finalMemory_wf {s : State} (h : Memory.wf s.mem) : Memory.wf (finalMemory s) := by
  unfold finalMemory
  generalize lsqOrder s.cfg s.cur = l
  generalize s.mem = m at h
  induction l generalizing m with
  | nil => exact h
  | cons i t ih => exact ih _ (storeEffect_wf h _)

theorem performAccess_wf {s : State} (h : Memory.wf s.mem) (e : LsqEntry) : Memory.wf (performAccess e s).mem := by
  unfold performAccess
  split <;> first | exact h | exact storeEffect_wf h e

theorem loadImage_wf {s : State} (h : Memory.wf s.mem) (image : List (Word × Byte)) :
    Memory.wf (s.loadImage image).mem := by
  show Memory.wf (image.foldl (fun m c => writeByte m c.1 c.2) s.mem)
  generalize s.mem = m at h
  induction image generalizing m with
  | nil => exact h
  | cons c t ih => exact ih _ (writeByte_wf h _ _)

theorem withWordAt_wf {s : State} (h : Memory.wf s.mem) (a w : Word) : Memory.wf (s.withWordAt a w).mem :=
  memWrite_wf h _ _ _

theorem reset_memory_wf : Memory.wf State.reset.mem := Memory.wf_nil

/-! ### The predictor's table -/

theorem Predictor.wf_iff (p : Predictor) :
    Predictor.Wf p ↔ SparseOk Bucket.reset p ∧ ∀ c ∈ p, c.1 < 4096 := by
  constructor
  · intro h
    exact ⟨⟨h.1, fun c hc => (h.2 c hc).2⟩, fun c hc => (h.2 c hc).1⟩
  · intro h
    exact ⟨h.1.1, fun c hc => ⟨h.2 c hc, h.1.2 c hc⟩⟩

theorem bucketIndex_lt (a : Word) : bucketIndex a < 4096 := (a.extractLsb' 0 12).isLt

theorem predictor_put_wf {p : Predictor} (h : Predictor.Wf p) (a : Word) (b : Bucket) :
    Predictor.Wf (sparsePut Bucket.reset p (bucketIndex a) b) := by
  rw [Predictor.wf_iff] at h ⊢
  refine ⟨sparsePut_ok h.1 _ _, fun c hc => ?_⟩
  rcases mem_sparsePut hc with hc | ⟨rfl, -⟩
  · exact h.2 c hc
  · exact bucketIndex_lt a

theorem bucket_put_same {p : Predictor} (h : Predictor.Wf p) (k : Nat) (b : Bucket) :
    Predictor.bucket (sparsePut Bucket.reset p k b) k = b :=
  sparseGet_sparsePut_same ((Predictor.wf_iff p).mp h).1 _ _

theorem bucket_put_ne (p : Predictor) {k j : Nat} (b : Bucket) (h : j ≠ k) :
    Predictor.bucket (sparsePut Bucket.reset p k b) j = Predictor.bucket p j :=
  sparseGet_sparsePut_ne _ _ _ h

end Sys2Proof.Machine
end

