-- ==== Sys2Proof/Laws/State.lean ====
section
/-! SUPPORT. One lemma per field per named update of the state, each true by `rfl` or by the cases of the update, so
that no proof unfolds a record update. -/

namespace Sys2Proof.Machine

/-! `beginCycle` -/
@[simp] theorem beginCycle_cfg (s : State) : (beginCycle s).cfg = s.cfg := rfl
@[simp] theorem beginCycle_mem (s : State) : (beginCycle s).mem = s.mem := rfl
@[simp] theorem beginCycle_status (s : State) : (beginCycle s).status = s.status := rfl
@[simp] theorem beginCycle_cur (s : State) : (beginCycle s).cur = s.cur := rfl
@[simp] theorem beginCycle_nxt (s : State) : (beginCycle s).nxt = s.cur := rfl

/-! `setNextPc` -/
@[simp] theorem setNextPc_cfg (a : Word) (s : State) : (setNextPc a s).cfg = s.cfg := rfl
@[simp] theorem setNextPc_mem (a : Word) (s : State) : (setNextPc a s).mem = s.mem := rfl
@[simp] theorem setNextPc_status (a : Word) (s : State) : (setNextPc a s).status = s.status := rfl
@[simp] theorem setNextPc_cur (a : Word) (s : State) : (setNextPc a s).cur = s.cur := rfl
@[simp] theorem setNextPc_nxt (a : Word) (s : State) :
    (setNextPc a s).nxt = { s.nxt with pc := a } := rfl

/-! `rsPush` -/
@[simp] theorem rsPush_cfg (k : Nat) (e : RsEntry) (s : State) : (rsPush k e s).cfg = s.cfg := rfl
@[simp] theorem rsPush_mem (k : Nat) (e : RsEntry) (s : State) : (rsPush k e s).mem = s.mem := rfl
@[simp] theorem rsPush_status (k : Nat) (e : RsEntry) (s : State) : (rsPush k e s).status = s.status := rfl
@[simp] theorem rsPush_cur (k : Nat) (e : RsEntry) (s : State) : (rsPush k e s).cur = s.cur := rfl
@[simp] theorem rsPush_nxt (k : Nat) (e : RsEntry) (s : State) :
    (rsPush k e s).nxt = { s.nxt with rs := s.nxt.rs.set k e } := rfl

/-! `lsqPush` -/
@[simp] theorem lsqPush_cfg (e : LsqEntry) (s : State) : (lsqPush e s).cfg = s.cfg := rfl
@[simp] theorem lsqPush_mem (e : LsqEntry) (s : State) : (lsqPush e s).mem = s.mem := rfl
@[simp] theorem lsqPush_status (e : LsqEntry) (s : State) : (lsqPush e s).status = s.status := rfl
@[simp] theorem lsqPush_cur (e : LsqEntry) (s : State) : (lsqPush e s).cur = s.cur := rfl
@[simp] theorem lsqPush_nxt (e : LsqEntry) (s : State) :
    (lsqPush e s).nxt = { s.nxt with lsq := s.nxt.lsq.set s.cur.lsqTail e, lsqTail := lsqNext s.cfg s.cur.lsqTail } := rfl

/-! `robPop` -/
@[simp] theorem robPop_cfg (s : State) : (robPop s).cfg = s.cfg := rfl
@[simp] theorem robPop_mem (s : State) : (robPop s).mem = s.mem := rfl
@[simp] theorem robPop_status (s : State) : (robPop s).status = s.status := rfl
@[simp] theorem robPop_cur (s : State) : (robPop s).cur = s.cur := rfl
@[simp] theorem robPop_nxt (s : State) :
    (robPop s).nxt = { s.nxt with robHead := s.cur.robHead + 1#5 } := rfl

/-! `deliverLoad` -/
@[simp] theorem deliverLoad_cfg (i : Slot) (v : Word) (s : State) : (deliverLoad i v s).cfg = s.cfg := rfl
@[simp] theorem deliverLoad_mem (i : Slot) (v : Word) (s : State) : (deliverLoad i v s).mem = s.mem := rfl
@[simp] theorem deliverLoad_status (i : Slot) (v : Word) (s : State) : (deliverLoad i v s).status = s.status := rfl
@[simp] theorem deliverLoad_cur (i : Slot) (v : Word) (s : State) : (deliverLoad i v s).cur = s.cur := rfl
@[simp] theorem deliverLoad_nxt (i : Slot) (v : Word) (s : State) :
    (deliverLoad i v s).nxt = { s.nxt with rob := robResult s.nxt.rob i v } := rfl

/-! `flushMispredicted` -/
@[simp] theorem flushMispredicted_cfg (e : RobEntry) (s : State) : (flushMispredicted e s).cfg = s.cfg := rfl
@[simp] theorem flushMispredicted_mem (e : RobEntry) (s : State) : (flushMispredicted e s).mem = s.mem := rfl
@[simp] theorem flushMispredicted_status (e : RobEntry) (s : State) : (flushMispredicted e s).status = s.status := rfl
@[simp] theorem flushMispredicted_cur (e : RobEntry) (s : State) : (flushMispredicted e s).cur = s.cur := rfl
@[simp] theorem flushMispredicted_nxt (e : RobEntry) (s : State) :
    (flushMispredicted e s).nxt = flushBank s.cfg s.cur.robHead e.correctTarget s.nxt := rfl

/-! `lsqWake` -/
@[simp] theorem lsqWake_cfg (s : State) : (lsqWake s).cfg = s.cfg := rfl
@[simp] theorem lsqWake_mem (s : State) : (lsqWake s).mem = s.mem := rfl
@[simp] theorem lsqWake_status (s : State) : (lsqWake s).status = s.status := rfl
@[simp] theorem lsqWake_cur (s : State) : (lsqWake s).cur = s.cur := rfl

/-! `rsStep` -/
@[simp] theorem rsStep_cfg (s : State) : (rsStep s).cfg = s.cfg := rfl
@[simp] theorem rsStep_mem (s : State) : (rsStep s).mem = s.mem := rfl
@[simp] theorem rsStep_status (s : State) : (rsStep s).status = s.status := rfl
@[simp] theorem rsStep_cur (s : State) : (rsStep s).cur = s.cur := rfl

/-! `publish` -/
@[simp] theorem publish_cfg (s : State) : (publish s).cfg = s.cfg := rfl
@[simp] theorem publish_mem (s : State) : (publish s).mem = s.mem := rfl
@[simp] theorem publish_status (s : State) : (publish s).status = s.status := rfl
@[simp] theorem publish_cur (s : State) : (publish s).cur = { s.nxt with clock := s.cur.clock + 1 } := rfl
@[simp] theorem publish_nxt (s : State) : (publish s).nxt = { s.nxt with clock := s.cur.clock + 1 } := rfl

/-! `aboutToWrite` -/
@[simp] theorem aboutToWrite_cfg (i : Reg) (t : Slot) (s : State) : (aboutToWrite i t s).cfg = s.cfg := by
  unfold aboutToWrite; split <;> rfl
@[simp] theorem aboutToWrite_mem (i : Reg) (t : Slot) (s : State) : (aboutToWrite i t s).mem = s.mem := by
  unfold aboutToWrite; split <;> rfl
@[simp] theorem aboutToWrite_status (i : Reg) (t : Slot) (s : State) : (aboutToWrite i t s).status = s.status := by
  unfold aboutToWrite; split <;> rfl
@[simp] theorem aboutToWrite_cur (i : Reg) (t : Slot) (s : State) : (aboutToWrite i t s).cur = s.cur := by
  unfold aboutToWrite; split <;> rfl

/-- The register file a rename stages: `dirty` and `dep` of `i`, nothing for register 0 (R343). -/
def renamedRegs (i : Reg) (t : Slot) (r : Vector RegEntry 32) : Vector RegEntry 32 :=
  if i = 0#5 then r else slotSet r i { slotGet r i with dirty := true, dep := t }

@[simp] theorem aboutToWrite_nxt (i : Reg) (t : Slot) (s : State) :
    (aboutToWrite i t s).nxt = { s.nxt with reg := renamedRegs i t s.nxt.reg } := by
  unfold aboutToWrite renamedRegs; split <;> rfl

/-- A rename changes no value (R343). -/
@[simp] theorem renamedRegs_value (i : Reg) (t : Slot) (r : Vector RegEntry 32) (j : Reg) :
    (slotGet (renamedRegs i t r) j).value = (slotGet r j).value := by
  unfold renamedRegs
  split
  · rfl
  · rw [slotGet_slotSet]; split
    · next h => subst h; rfl
    · rfl

/-! `regWrite` -/
@[simp] theorem regWrite_cfg (i : Reg) (v : Word) (h : Slot) (s : State) : (regWrite i v h s).cfg = s.cfg := by
  unfold regWrite; split <;> rfl
@[simp] theorem regWrite_mem (i : Reg) (v : Word) (h : Slot) (s : State) : (regWrite i v h s).mem = s.mem := by
  unfold regWrite; split <;> rfl
@[simp] theorem regWrite_status (i : Reg) (v : Word) (h : Slot) (s : State) :
    (regWrite i v h s).status = s.status := by
  unfold regWrite; split <;> rfl
@[simp] theorem regWrite_cur (i : Reg) (v : Word) (h : Slot) (s : State) : (regWrite i v h s).cur = s.cur := by
  unfold regWrite; split <;> rfl

/-- Only the register file of the next copy is written. -/
theorem regWrite_nxt (i : Reg) (v : Word) (h : Slot) (s : State) :
    (regWrite i v h s).nxt = { s.nxt with reg := (regWrite i v h s).nxt.reg } := by
  unfold regWrite; split <;> rfl

/-- The committed value after a write: the new one at `i` unless `i` is register 0 (R344, R345). -/
theorem regWrite_value (i : Reg) (v : Word) (h : Slot) (s : State) (j : Reg) :
    (slotGet (regWrite i v h s).nxt.reg j).value
      = if i ≠ 0#5 ∧ j = i then v else (slotGet s.nxt.reg j).value := by
  unfold regWrite
  by_cases hi : i = 0#5
  · simp [hi]
  · simp only [hi, if_false, slotGet_slotSet]
    by_cases hj : j = i <;> simp [hj, hi]

/-! `predUpdate` -/
@[simp] theorem predUpdate_cfg (a : Word) (o : Bool) (s : State) : (predUpdate a o s).cfg = s.cfg := by
  unfold predUpdate; dsimp only; split <;> rfl
@[simp] theorem predUpdate_mem (a : Word) (o : Bool) (s : State) : (predUpdate a o s).mem = s.mem := by
  unfold predUpdate; dsimp only; split <;> rfl
@[simp] theorem predUpdate_status (a : Word) (o : Bool) (s : State) : (predUpdate a o s).status = s.status := by
  unfold predUpdate; dsimp only; split <;> rfl
@[simp] theorem predUpdate_cur (a : Word) (o : Bool) (s : State) : (predUpdate a o s).cur = s.cur := by
  unfold predUpdate; dsimp only; split <;> rfl

/-- Only the predictor's fields of the next copy are written (R357). -/
theorem predUpdate_nxt (a : Word) (o : Bool) (s : State) :
    (predUpdate a o s).nxt = { s.nxt with
      pred := sparsePut Bucket.reset s.nxt.pred (bucketIndex a) ((s.cur.pred.bucket (bucketIndex a)).train o)
      predCorrect := (predUpdate a o s).nxt.predCorrect
      predIncorrect := (predUpdate a o s).nxt.predIncorrect } := by
  unfold predUpdate; dsimp only; split <;> rfl

/-! `performAccess` -/
@[simp] theorem performAccess_cfg (e : LsqEntry) (s : State) : (performAccess e s).cfg = s.cfg := by
  unfold performAccess; split <;> rfl
@[simp] theorem performAccess_status (e : LsqEntry) (s : State) : (performAccess e s).status = s.status := by
  unfold performAccess; split <;> rfl
@[simp] theorem performAccess_cur (e : LsqEntry) (s : State) : (performAccess e s).cur = s.cur := by
  unfold performAccess; split <;> rfl

/-- A load leaves memory alone; a store writes its bytes (R280, R67). -/
theorem performAccess_mem (e : LsqEntry) (s : State) :
    (performAccess e s).mem = if e.type.isStore then storeEffect e s.mem else s.mem := by
  unfold performAccess LsqType.isStore LsqType.isLoad
  cases e.type <;> rfl

/-- An access stages at most the RoB entry's `value` and `ready` (R280). -/
theorem performAccess_nxt (e : LsqEntry) (s : State) :
    (performAccess e s).nxt = { s.nxt with rob := (performAccess e s).nxt.rob } := by
  unfold performAccess; split <;> rfl

/-! Sequencing -/
@[simp] theorem bindNext_next (s : State) (f : State → Result) : bindNext (.next s) f = f s := rfl
@[simp] theorem bindNext_fault (e : Fault) (f : State → Result) : bindNext (.fault e) f = .fault e := rfl
@[simp] theorem bindNext_refused (e : Refusal) (f : State → Result) : bindNext (.refused e) f = .refused e := rfl

/-- A sequence that answers a next state ran both parts. -/
theorem bindNext_eq_next {r : Result} {f : State → Result} {t : State} (h : bindNext r f = .next t) :
    ∃ s, r = .next s ∧ f s = .next t := by
  cases r with
  | next s => exact ⟨s, rfl, h⟩
  | fault e => cases h
  | refused e => cases h

end Sys2Proof.Machine
end

