-- ==== Sys2Proof/Laws/Units.lean ====
section
/-! SUPPORT. What each shared operation and each unit's step can do, said once: the next state it answers, and what
it leaves alone. Proofs cite these lemmas instead of unfolding the operations. -/

namespace Sys2Proof.Machine

/-! ### The reorder buffer -/

/-- The state `rob_add` answers when the buffer is not full (R312, R176). -/
def robAdded (e : RobEntry) (s : State) : State :=
  { s with
    nxt.rob := slotSet s.nxt.rob s.cur.robTail e
    nxt.robTail := s.cur.robTail + 1#5
    nxt.reg := if e.kind = .registerWrite then renamedRegs (e.dest.setWidth 5) s.cur.robTail s.nxt.reg else s.nxt.reg }

theorem robAdd_of_not_full {e : RobEntry} {s : State} (h : s.cur.robFull = false) :
    robAdd e s = .next (robAdded e s) := by
  unfold robAdd robAdded
  by_cases hk : e.kind = .registerWrite
  · simp only [h, hk, Bool.false_eq_true, if_false, if_true]
    unfold aboutToWrite renamedRegs
    split <;> rfl
  · simp only [h, hk, Bool.false_eq_true, if_false]

theorem robAdd_eq_next {e : RobEntry} {s t : State} (h : robAdd e s = .next t) :
    s.cur.robFull = false ∧ t = robAdded e s := by
  by_cases hf : s.cur.robFull = true
  · simp [robAdd, hf, raiseFatal] at h
  · have hf' : s.cur.robFull = false := by simpa using hf
    rw [robAdd_of_not_full hf'] at h
    exact ⟨hf', by injection h with h; exact h.symm⟩

/-- On a full buffer `rob_add` is the assertion of R371. -/
theorem robAdd_of_full {e : RobEntry} {s : State} (h : s.cur.robFull = true) :
    robAdd e s = .fault (.fatal (.internalAssert .robAddFull)) := by
  simp [robAdd, h, raiseFatal]

@[simp] theorem robAdded_cfg (e : RobEntry) (s : State) : (robAdded e s).cfg = s.cfg := rfl
@[simp] theorem robAdded_cur (e : RobEntry) (s : State) : (robAdded e s).cur = s.cur := rfl
@[simp] theorem robAdded_mem (e : RobEntry) (s : State) : (robAdded e s).mem = s.mem := rfl
@[simp] theorem robAdded_status (e : RobEntry) (s : State) : (robAdded e s).status = s.status := rfl

/-- A 5-bit register index survives its 32-bit `dest` field (R31). -/
@[simp] theorem setWidth_dest (r : Reg) : (BitVec.setWidth 5 (BitVec.setWidth 32 r)) = r := by
  apply BitVec.eq_of_toNat_eq
  simp only [BitVec.toNat_setWidth]
  have := r.isLt
  omega

theorem robResult_get (rob : Vector RobEntry 32) (i j : Slot) (v : Word) :
    slotGet (robResult rob i v) j
      = if j = i then { slotGet rob i with value := v, ready := true } else slotGet rob j := by
  unfold robResult; rw [slotGet_slotSet]

theorem robMarkReady_get (rob : Vector RobEntry 32) (i j : Slot) :
    slotGet (robMarkReady rob i) j = if j = i then { slotGet rob i with ready := true } else slotGet rob j := by
  unfold robMarkReady; rw [slotGet_slotSet]

/-! ### Dispatch: what the fetch unit stages for each class -/

theorem dispatchReady_of_not_full {rd : Reg} {v a : Word} {s : State} (h : s.cur.robFull = false) :
    dispatchReady rd v a s = .next (setNextPc a (robAdded (regWriteEntry rd true v) s)) := by
  simp [dispatchReady, robAdd_of_not_full h]

theorem dispatchComputational_of_room {op : RsOp} {rd : Reg} {o1 o2 : Operand} {s : State} {k : Nat}
    (h : s.cur.robFull = false) (hk : freeRsSlot s.cur.rs = some k) :
    dispatchComputational op rd o1 o2 s
      = .next (setNextPc (s.cur.pc + 4#32)
          (rsPush k (rsEntry op s.cur.robTail o1 o2) (robAdded (regWriteEntry rd false 0#32) s))) := by
  simp [dispatchComputational, hk, robAdd_of_not_full h]

theorem dispatchBranch_of_room {op : RsOp} {r1 r2 : Reg} {off : Word} {s : State} {k : Nat}
    (h : s.cur.robFull = false) (hk : freeRsSlot s.cur.rs = some k) :
    dispatchBranch op r1 r2 off s
      = .next (setNextPc (if predict s s.cur.pc then s.cur.pc + off else s.cur.pc + 4#32)
          (rsPush k (rsEntry op s.cur.robTail (resolve s r1) (resolve s r2))
            (robAdded (branchEntry (predict s s.cur.pc) (s.cur.pc + off) s.cur.pc) s))) := by
  simp [dispatchBranch, hk, robAdd_of_not_full h]

theorem dispatchLoad_of_room {ty : LsqType} {rd r1 : Reg} {off : Word} {s : State}
    (h : s.cur.robFull = false) (hq : s.cur.lsqFull s.cfg = false) :
    dispatchLoad ty rd r1 off s
      = .next (setNextPc (s.cur.pc + 4#32)
          (lsqPush (loadEntry ty s.cur.robTail (resolve s r1) off) (robAdded (regWriteEntry rd false 0#32) s))) := by
  simp [dispatchLoad, hq, robAdd_of_not_full h]

theorem dispatchStore_of_room {ty : LsqType} {r1 r2 : Reg} {off : Word} {s : State}
    (h : s.cur.robFull = false) (hq : s.cur.lsqFull s.cfg = false) :
    dispatchStore ty r1 r2 off s
      = .next (setNextPc (s.cur.pc + 4#32)
          (lsqPush (storeEntry ty s.cur.robTail (resolve s r1) (resolve s r2) off)
            (robAdded (memWriteEntry s.cur.lsqTail) s))) := by
  simp [dispatchStore, hq, robAdd_of_not_full h]

/-- What every meaning leaves alone: the current copy, memory, the parameters, the status, and in the next copy the
fields that the fetch step does not stage (R133). -/
structure FetchFrame (s t : State) : Prop where
  cfg : t.cfg = s.cfg
  cur : t.cur = s.cur
  mem : t.mem = s.mem
  status : t.status = s.status
  robHead : t.nxt.robHead = s.nxt.robHead
  fu : t.nxt.fu = s.nxt.fu
  lsqHead : t.nxt.lsqHead = s.nxt.lsqHead
  lsqInflight : t.nxt.lsqInflight = s.nxt.lsqInflight
  lsqCount : t.nxt.lsqCount = s.nxt.lsqCount
  pred : t.nxt.pred = s.nxt.pred
  predCorrect : t.nxt.predCorrect = s.nxt.predCorrect
  predIncorrect : t.nxt.predIncorrect = s.nxt.predIncorrect
  clock : t.nxt.clock = s.nxt.clock
  values : ∀ i, (slotGet t.nxt.reg i).value = (slotGet s.nxt.reg i).value

theorem FetchFrame.refl (s : State) : FetchFrame s s := by constructor <;> simp

theorem robAdded_values (e : RobEntry) (s : State) (i : Reg) :
    (slotGet (robAdded e s).nxt.reg i).value = (slotGet s.nxt.reg i).value := by
  unfold robAdded
  split
  · exact renamedRegs_value ..
  · rfl

theorem robAdd_frame {e : RobEntry} {s t : State} (h : robAdd e s = .next t) : FetchFrame s t := by
  obtain ⟨-, rfl⟩ := robAdd_eq_next h
  constructor <;> first | rfl | exact robAdded_values e s

theorem dispatchReady_frame {rd : Reg} {v a : Word} {s t : State} (h : dispatchReady rd v a s = .next t) :
    FetchFrame s t := by
  obtain ⟨u, hu, ht⟩ := bindNext_eq_next h
  have f := robAdd_frame hu
  cases ht
  exact { f with }

theorem dispatchComputational_frame {op : RsOp} {rd : Reg} {o1 o2 : Operand} {s t : State}
    (h : dispatchComputational op rd o1 o2 s = .next t) : FetchFrame s t := by
  unfold dispatchComputational at h
  split at h
  · cases h; exact .refl s
  · obtain ⟨u, hu, ht⟩ := bindNext_eq_next h
    have f := robAdd_frame hu
    cases ht
    exact { f with }

theorem dispatchBranch_frame {op : RsOp} {r1 r2 : Reg} {off : Word} {s t : State}
    (h : dispatchBranch op r1 r2 off s = .next t) : FetchFrame s t := by
  unfold dispatchBranch at h
  split at h
  · cases h; exact .refl s
  · obtain ⟨u, hu, ht⟩ := bindNext_eq_next h
    have f := robAdd_frame hu
    cases ht
    exact { f with }

theorem dispatchLoad_frame {ty : LsqType} {rd r1 : Reg} {off : Word} {s t : State}
    (h : dispatchLoad ty rd r1 off s = .next t) : FetchFrame s t := by
  unfold dispatchLoad at h
  split at h
  · cases h; exact .refl s
  · obtain ⟨u, hu, ht⟩ := bindNext_eq_next h
    have f := robAdd_frame hu
    cases ht
    exact { f with }

theorem dispatchStore_frame {ty : LsqType} {r1 r2 : Reg} {off : Word} {s t : State}
    (h : dispatchStore ty r1 r2 off s = .next t) : FetchFrame s t := by
  unfold dispatchStore at h
  split at h
  · cases h; exact .refl s
  · obtain ⟨u, hu, ht⟩ := bindNext_eq_next h
    have f := robAdd_frame hu
    cases ht
    exact { f with }

/-- Every instruction's meaning keeps `FetchFrame`. -/
theorem exec_frame {i : Instr} {s t : State} (h : exec i s = .next t) : FetchFrame s t := by
  cases i with
  | endProg =>
    obtain ⟨u, hu, ht⟩ := bindNext_eq_next h
    have f := robAdd_frame hu
    cases ht
    exact { f with }
  | auipc rd imm =>
    simp only [exec, execAuipc] at h
    split at h
    · cases h; exact { FetchFrame.refl s with }
    · cases h; exact { FetchFrame.refl s with }
    · exact dispatchReady_frame h
  | jalr rd rs1 imm =>
    obtain ⟨u, hu, ht⟩ := bindNext_eq_next h
    have f := robAdd_frame hu
    split at ht <;> cases ht <;> exact { f with }
  | lui rd imm => exact dispatchReady_frame h
  | jal rd imm => exact dispatchReady_frame h
  | beq | bne | blt | bge | bltu | bgeu => exact dispatchBranch_frame h
  | lb | lh | lw | lbu | lhu => exact dispatchLoad_frame h
  | sb | sh | sw => exact dispatchStore_frame h
  | addi | slti | sltiu | xori | ori | andi | slli | srli | srai => exact dispatchComputational_frame h
  | add | sub | sll | slt | sltu | xor | srl | sra | or | and => exact dispatchComputational_frame h

/-- What the fetch step can do (R150): nothing, resolve a pending JALR, or dispatch a fetched instruction. -/
theorem fetchStep_cases {s t : State} (h : fetchStep s = .next t) :
    t = s
      ∨ (s.cur.fetchStopped = false ∧ s.cur.jalrWait.valid = true ∧ t = resolveJalr s)
      ∨ (s.cur.fetchStopped = false ∧ s.cur.jalrWait.valid = false ∧ s.cur.robFull = false
          ∧ ∃ i, decode s.cfg.endWord (fetchWord s) = .ok i ∧ exec i s = .next t) := by
  unfold fetchStep at h
  split at h
  · cases h; exact .inl rfl
  · next h1 =>
    split at h
    · next h2 => cases h; exact .inr (.inl ⟨by simpa using h1, h2, rfl⟩)
    · next h2 =>
      split at h
      · cases h; exact .inl rfl
      · next h3 =>
        unfold fetchDispatch at h
        split at h
        · cases h
        · split at h
          · next i hi =>
            exact .inr (.inr ⟨by simpa using h1, by simpa using h2, by simpa using h3, i, hi, h⟩)
          · cases h

theorem resolveJalr_frame (s : State) : FetchFrame s (resolveJalr s) := by
  unfold resolveJalr
  dsimp only
  split
  · exact { FetchFrame.refl s with }
  · exact .refl s

theorem fetchStep_frame {s t : State} (h : fetchStep s = .next t) : FetchFrame s t := by
  rcases fetchStep_cases h with rfl | ⟨-, -, rfl⟩ | ⟨-, -, -, i, -, hi⟩
  · exact .refl t
  · exact resolveJalr_frame s
  · exact exec_frame hi

/-! ### The LSQ step -/

/-- What the memory pipeline can do (R280). -/
theorem memPipeline_cases {s t : State} (h : memPipeline s = .next t) :
    (s.cur.lsqInflight = true ∧ s.cur.lsqCount ≠ 0#2
        ∧ t = { s with nxt.lsqCount := s.cur.lsqCount - 1#2 })
      ∨ (s.cur.lsqInflight = true ∧ s.cur.lsqCount = 0#2
        ∧ outOfRange s.cfg (s.cur.lsqAt s.cur.lsqHead).addr (s.cur.lsqAt s.cur.lsqHead).type.bytes = none
        ∧ t = { performAccess (s.cur.lsqAt s.cur.lsqHead) s with
                nxt.lsqHead := lsqNext s.cfg s.cur.lsqHead
                nxt.lsqInflight := false })
      ∨ (s.cur.lsqInflight = false ∧ s.cur.lsqEmpty = false ∧ (s.cur.lsqAt s.cur.lsqHead).ready = true
        ∧ t = { s with nxt.lsqInflight := true, nxt.lsqCount := memCountdown })
      ∨ (s.cur.lsqInflight = false
        ∧ (s.cur.lsqEmpty = true ∨ (s.cur.lsqAt s.cur.lsqHead).ready = false) ∧ t = s) := by
  unfold memPipeline at h
  split at h
  · next h1 =>
    split at h
    · next h2 => cases h; exact .inl ⟨h1, by simpa using h2, rfl⟩
    · next h2 =>
      dsimp only at h
      split at h
      · cases h
      · next h3 => cases h; exact .inr (.inl ⟨h1, by simpa using h2, h3, rfl⟩)
  · next h1 =>
    split at h
    · next h2 =>
      cases h
      simp only [Bool.and_eq_true, Bool.not_eq_true'] at h2
      exact .inr (.inr (.inl ⟨by simpa using h1, h2.1, h2.2, rfl⟩))
    · next h2 =>
      cases h
      refine .inr (.inr (.inr ⟨by simpa using h1, ?_, rfl⟩))
      cases he : s.cur.lsqEmpty <;> simp_all

/-- The LSQ step leaves the current copy, the parameters and the status alone, changes memory only by the head
store's access, and stages only RoB entries, LSQ entries and the pipeline's fields (R133). -/
structure LsqFrame (s t : State) : Prop where
  cfg : t.cfg = s.cfg
  cur : t.cur = s.cur
  status : t.status = s.status
  nxt : t.nxt = { s.nxt with
    rob := t.nxt.rob, lsq := t.nxt.lsq, lsqHead := t.nxt.lsqHead, lsqInflight := t.nxt.lsqInflight,
    lsqCount := t.nxt.lsqCount }
  mem : t.mem = s.mem ∨
    (s.cur.lsqInflight = true ∧ s.cur.lsqCount = 0#2
      ∧ (s.cur.lsqAt s.cur.lsqHead).type.isStore = true
      ∧ t.mem = storeEffect (s.cur.lsqAt s.cur.lsqHead) s.mem)

/-- An access stages one RoB entry or writes memory, nothing else. -/
theorem performAccess_shape (e : LsqEntry) (s : State) :
    ∃ r m, performAccess e s = { s with nxt.rob := r, mem := m } := by
  unfold performAccess
  split <;> exact ⟨_, _, rfl⟩

theorem lsqStep_frame {s t : State} (h : lsqStep s = .next t) : LsqFrame s t := by
  rcases memPipeline_cases h with ⟨-, -, rfl⟩ | ⟨h1, h2, -, rfl⟩ | ⟨-, -, -, rfl⟩ | ⟨-, -, rfl⟩
  · constructor <;> first | rfl | exact .inl rfl
  · refine ⟨by simp, by simp, by simp, ?_, ?_⟩
    · obtain ⟨r, m, hp⟩ := performAccess_shape ((lsqWake s).cur.lsqAt (lsqWake s).cur.lsqHead) (lsqWake s)
      rw [hp]
      rfl
    · simp only [performAccess_mem]
      split
      · next hs => exact .inr ⟨h1, h2, hs, rfl⟩
      · exact .inl rfl
  · constructor <;> first | rfl | exact .inl rfl
  · constructor <;> first | rfl | exact .inl rfl

/-! ### The commit step -/

/-- What the commit step can do (R315): nothing, or commit the ready head by its kind. -/
theorem commitStep_cases {s t : State} (h : commitStep s = .next t) :
    ((s.cur.robEmpty = true ∨ (slotGet s.cur.rob s.cur.robHead).ready = false) ∧ t = s)
      ∨ (s.cur.robEmpty = false ∧ (slotGet s.cur.rob s.cur.robHead).ready = true
        ∧ (((slotGet s.cur.rob s.cur.robHead).kind = .registerWrite
              ∧ commitRegister (slotGet s.cur.rob s.cur.robHead) s = .next t)
          ∨ ((slotGet s.cur.rob s.cur.robHead).kind = .memoryWrite
              ∧ commitStore (slotGet s.cur.rob s.cur.robHead) s = .next t)
          ∨ ((slotGet s.cur.rob s.cur.robHead).kind = .branch
              ∧ commitBranch (slotGet s.cur.rob s.cur.robHead) s = .next t)
          ∨ ((slotGet s.cur.rob s.cur.robHead).kind = .endProg ∧ commitEnd s = .next t))) := by
  unfold commitStep at h
  split at h
  · next h1 => cases h; exact .inl ⟨.inl h1, rfl⟩
  · next h1 =>
    dsimp only at h
    split at h
    · next h2 => cases h; exact .inl ⟨.inr h2, rfl⟩
    · next h2 =>
      refine .inr ⟨by simpa using h1, by simpa using h2, ?_⟩
      split at h
      · next hk => exact .inl ⟨hk, h⟩
      · next hk => exact .inr (.inl ⟨hk, h⟩)
      · next hk => exact .inr (.inr (.inl ⟨hk, h⟩))
      · next hk => exact .inr (.inr (.inr ⟨hk, h⟩))

/-- The commit of a MemoryWrite entry, where it does not fault (R318). -/
theorem commitStore_eq_next {e : RobEntry} {s t : State} (h : commitStore e s = .next t) :
    uncommittedStoreAt s e.dest.toNat = true
      ∧ t = robPop { s with nxt.lsq := s.nxt.lsq.set e.dest.toNat { s.nxt.lsqAt e.dest.toNat with ready := true } } := by
  unfold commitStore at h
  dsimp only at h
  split at h
  · next hu => cases h; exact ⟨hu, rfl⟩
  · cases h

/-- The commit step leaves the current copy, memory and the parameters alone. -/
theorem commitStep_keeps {s t : State} (h : commitStep s = .next t) :
    t.cfg = s.cfg ∧ t.cur = s.cur ∧ t.mem = s.mem := by
  rcases commitStep_cases h with ⟨-, rfl⟩ | ⟨-, -, ⟨-, h⟩ | ⟨-, h⟩ | ⟨-, h⟩ | ⟨-, h⟩⟩
  · exact ⟨rfl, rfl, rfl⟩
  · cases h; simp
  · obtain ⟨-, rfl⟩ := commitStore_eq_next h; exact ⟨rfl, rfl, rfl⟩
  · unfold commitBranch at h
    dsimp only at h
    injection h with h
    subst h
    split <;> simp
  · cases h; exact ⟨rfl, rfl, rfl⟩

/-! ### The cycle -/

/-- What a step is (R130, R135): the four unit steps in order from the state with `nxt = cur`, then the end of the
cycle. -/
theorem step_cases {s t : State} (h : step s = .next t) :
    s.status = .running ∧ ∃ s1 s2 s3, lsqStep (beginCycle s) = .next s1 ∧ fetchStep s1 = .next s2
      ∧ commitStep (rsStep s2) = .next s3 ∧ t = endCycle s3 := by
  unfold step cycle at h
  split at h
  · next hs =>
    obtain ⟨s3, h3, ht⟩ := bindNext_eq_next h
    obtain ⟨s2, h2, h3⟩ := bindNext_eq_next h3
    obtain ⟨s1, h1, h2⟩ := bindNext_eq_next h2
    cases ht
    exact ⟨hs, s1, s2, s3, h1, h2, h3, rfl⟩
  · cases h
  · cases h

/-- The converse: the four unit steps give the step. -/
theorem step_of_units {s s1 s2 s3 : State} (hs : s.status = .running) (h1 : lsqStep (beginCycle s) = .next s1)
    (h2 : fetchStep s1 = .next s2) (h3 : commitStep (rsStep s2) = .next s3) :
    step s = .next (endCycle s3) := by
  simp [step, cycle, hs, computePhase, h1, h2, h3]

/-- Within a cycle every unit sees one and the same current copy (R131). -/
theorem step_units_cur {s s1 s2 : State} (h1 : lsqStep (beginCycle s) = .next s1) (h2 : fetchStep s1 = .next s2) :
    s1.cur = s.cur ∧ s2.cur = s.cur ∧ s1.cfg = s.cfg ∧ s2.cfg = s.cfg ∧ s2.mem = s1.mem := by
  have f1 := lsqStep_frame h1
  have f2 := fetchStep_frame h2
  have c1 : s1.cur = s.cur := f1.cur
  have g1 : s1.cfg = s.cfg := f1.cfg
  exact ⟨c1, f2.cur.trans c1, g1, f2.cfg.trans g1, f2.mem⟩

/-! ### Rings of the station and the unit array -/

theorem FuArray.unit_put (a : FuArray) (c c' : FuClass) (u u' : FuInst) (f : Fu) :
    (a.put c u f).unit c' u' = if c' = c ∧ u' = u then f else a.unit c' u' := by
  cases c <;> cases c' <;> cases u <;> cases u' <;> rfl

theorem rsStep_length (s : State) : (rsStep s).nxt.rs.length = s.nxt.rs.length := by
  simp [rsStep]

/-- The RS step slot by slot (R195). -/
theorem rsStep_rsAt (s : State) {k : Nat} (h : k < s.nxt.rs.length) :
    (rsStep s).nxt.rsAt k
      = rsSlotStep s.cur ((issueGrants s.cur.fu s.cur.rs).getD k none).isSome (s.cur.rsAt k) (s.nxt.rsAt k) := by
  simp [rsStep, Bank.rsAt, List.getD, h]

/-- The LSQ's wake-up slot by slot (R276). -/
theorem lsqWake_lsqAt (s : State) {i : Nat} (h : i < s.nxt.lsq.length) :
    (lsqWake s).nxt.lsqAt i
      = if s.cur.lsqOccupied s.cfg i then wakeLsq s.cur.rob (s.cur.lsqAt i) (s.nxt.lsqAt i) else s.nxt.lsqAt i := by
  simp [lsqWake, Bank.lsqAt, List.getD, h]

end Sys2Proof.Machine
end

