-- ==== Sys2Proof/Laws/Check.lean ====
section
/-! SUPPORT. A decidable form of the invariant, so that a concrete state is shown to meet it by evaluation: the same
clauses as `Inv` in Safety.lean, with every quantifier bounded. -/

namespace Sys2Proof.Machine

def allClasses : List FuClass := [.add, .shift, .setCmp, .logic]
def allUnits : List FuInst := [.u0, .u1]

theorem mem_allClasses (c : FuClass) : c ∈ allClasses := by cases c <;> decide
theorem mem_allUnits (u : FuInst) : u ∈ allUnits := by cases u <;> decide

abbrev ShapedData (c : Config) (b : Bank) : Prop :=
  b.rs.length = c.rsSize ∧ b.lsq.length = c.lsqSize ∧ b.lsqHead < c.lsqSize ∧ b.lsqTail < c.lsqSize

abbrev RatData (b : Bank) : Prop :=
  (∀ i : Reg, (slotGet b.reg i).dirty = true → b.produces (slotGet b.reg i).dep i)
  ∧ (∀ (i : Reg) (t : Slot), i ≠ 0#5 → b.produces t i → (slotGet b.reg i).dirty = true)
  ∧ ∀ (i : Reg) (t : Slot), (slotGet b.reg i).dirty = true → b.produces t i →
      b.robAge t ≤ b.robAge (slotGet b.reg i).dep

abbrev StationData (b : Bank) : Prop :=
  (∀ e ∈ b.rs, e.busy = (e.q1c || e.q2c))
  ∧ (∀ e ∈ b.rs, e.empty = false → b.robOccupied e.rob = true ∧ (slotGet b.rob e.rob).ready = false
      ∧ (slotGet b.rob e.rob).kind = if e.op.isBranch then .branch else .registerWrite)
  ∧ (∀ k < b.rs.length, ∀ j < b.rs.length, (b.rsAt k).empty = false → (b.rsAt j).empty = false →
      (b.rsAt k).rob = (b.rsAt j).rob → k = j)
  ∧ (∀ e ∈ b.rs, e.empty = false → e.q1c = true → b.waitOk e.q1 e.rob)
  ∧ ∀ e ∈ b.rs, e.empty = false → e.q2c = true → b.waitOk e.q2 e.rob

abbrev UnitsData (b : Bank) : Prop :=
  (∀ f ∈ b.fu.units, f.busy = f.finished)
  ∧ (∀ c ∈ allClasses, ∀ u ∈ allUnits, (b.fu.unit c u).busy = true →
      ∃ e ∈ b.rs, e.empty = false ∧ e.issued = true ∧ e.rob = (b.fu.unit c u).index ∧ opClass e.op = c)
  ∧ (∀ e ∈ b.rs, e.empty = false → e.issued = true → ∃ f ∈ b.fu.units, f.busy = true ∧ f.index = e.rob)
  ∧ ∀ c ∈ allClasses, ∀ c' ∈ allClasses, ∀ u ∈ allUnits, ∀ u' ∈ allUnits, (b.fu.unit c u).busy = true →
      (b.fu.unit c' u').busy = true → (b.fu.unit c u).index = (b.fu.unit c' u').index → c = c' ∧ u = u'

abbrev LsqSlotData (b : Bank) (i : Nat) : Prop :=
  ((b.lsqAt i).type.isLoad = true →
    b.robOccupied (b.lsqAt i).rob = true ∧ (slotGet b.rob (b.lsqAt i).rob).ready = false
      ∧ (slotGet b.rob (b.lsqAt i).rob).kind = .registerWrite
      ∧ (b.lsqAt i).ready = !(b.lsqAt i).basec ∧ (b.lsqAt i).valuec = false)
  ∧ ((b.lsqAt i).type.isStore = true → (b.lsqAt i).ready = false →
    b.robOccupied (b.lsqAt i).rob = true ∧ (slotGet b.rob (b.lsqAt i).rob).kind = .memoryWrite
      ∧ (slotGet b.rob (b.lsqAt i).rob).dest = BitVec.ofNat 32 i
      ∧ ((slotGet b.rob (b.lsqAt i).rob).ready = true → (b.lsqAt i).basec = false ∧ (b.lsqAt i).valuec = false))
  ∧ ((b.lsqAt i).committedStore = true → (b.lsqAt i).basec = false ∧ (b.lsqAt i).valuec = false)
  ∧ ((b.lsqAt i).basec = true → b.waitOk (b.lsqAt i).baseq (b.lsqAt i).rob)
  ∧ ((b.lsqAt i).valuec = true → b.waitOk (b.lsqAt i).valueq (b.lsqAt i).rob)

abbrev QueueData (c : Config) (b : Bank) : Prop :=
  (∀ i < c.lsqSize, b.lsqOccupied c i = true → LsqSlotData b i)
  ∧ (∀ i < c.lsqSize, ∀ j < c.lsqSize, b.lsqOccupied c i = true → b.lsqOccupied c j = true →
      b.lsqAge c i < b.lsqAge c j → (b.lsqAt j).committedStore = true → (b.lsqAt i).committedStore = true)
  ∧ (∀ i < c.lsqSize, ∀ j < c.lsqSize, b.lsqOccupied c i = true → b.lsqOccupied c j = true →
      b.lsqAge c i < b.lsqAge c j → (b.lsqAt i).committedStore = false → (b.lsqAt j).committedStore = false →
      b.robAge (b.lsqAt i).rob < b.robAge (b.lsqAt j).rob)
  ∧ (∀ t : Slot, b.robOccupied t = true → (slotGet b.rob t).kind = .memoryWrite →
      (slotGet b.rob t).dest.toNat < c.lsqSize ∧ b.lsqOccupied c (slotGet b.rob t).dest.toNat = true
        ∧ (b.lsqAt (slotGet b.rob t).dest.toNat).type.isStore = true
        ∧ (b.lsqAt (slotGet b.rob t).dest.toNat).ready = false
        ∧ (b.lsqAt (slotGet b.rob t).dest.toNat).rob = t)
  ∧ (∀ i < c.lsqSize, b.lsqOccupied c i = true → (b.lsqAt i).type.isLoad = true →
      ∀ e ∈ b.rs, e.empty = false → e.rob ≠ (b.lsqAt i).rob)
  ∧ (b.lsqInflight = true → b.lsqEmpty = false ∧ (b.lsqAt b.lsqHead).ready = true)
  ∧ b.lsqCount ≤ 2#2

abbrev OwnersData (c : Config) (b : Bank) : Prop :=
  (∀ t : Slot, b.robOccupied t = true → (slotGet b.rob t).ready = false →
    (∃ e ∈ b.rs, e.empty = false ∧ e.rob = t)
      ∨ ∃ i < c.lsqSize, b.lsqOccupied c i = true ∧ (b.lsqAt i).committedStore = false ∧ (b.lsqAt i).rob = t)
  ∧ ∀ t : Slot, b.robOccupied t = true → (slotGet b.rob t).kind = .endProg → (slotGet b.rob t).ready = true

abbrev FetchData (b : Bank) : Prop :=
  (b.fetchStopped = true → b.robEmpty = false ∧ (slotGet b.rob (b.robTail - 1#5)).kind = .endProg)
  ∧ (∀ t : Slot, b.robOccupied t = true → (slotGet b.rob t).kind = .endProg →
      b.fetchStopped = true ∧ t + 1#5 = b.robTail)
  ∧ (b.jalrWait.valid = true →
      b.robOccupied b.jalrWait.q = true ∧ (slotGet b.rob b.jalrWait.q).kind = .registerWrite)
  ∧ (b.fetchStopped = true → b.jalrWait.valid = false)

set_option synthInstance.maxSize 2000 in
/-- The invariant, evaluated. -/
def invCheck (s : State) : Bool :=
  decide (s.cfg.Valid) && (decide (ShapedData s.cfg s.cur) && (decide (Memory.wf s.mem)
    && (decide (Predictor.Wf s.cur.pred) && (decide (ZeroOk s.cur) && (decide (RatData s.cur)
    && (decide (StationData s.cur) && (decide (UnitsData s.cur) && (decide (QueueData s.cfg s.cur)
    && (decide (OwnersData s.cfg s.cur) && decide (FetchData s.cur))))))))))

/-- A state whose checks evaluate to true meets the invariant. -/
theorem inv_of_check {s : State} (h : invCheck s = true) : Inv s := by
  simp only [invCheck, Bool.and_eq_true, decide_eq_true_iff] at h
  obtain ⟨valid, sh, memory, predictor, zero, rat, st, un, q, ow, fe⟩ := h
  exact
    { valid, memory, predictor, zero
      shaped := ⟨sh.1, sh.2.1, sh.2.2.1, sh.2.2.2⟩
      rat := ⟨rat.1, rat.2.1, rat.2.2⟩
      station := ⟨st.1, st.2.1, fun k j hk hj => st.2.2.1 k hk j hj, st.2.2.2.1, st.2.2.2.2⟩
      units :=
        ⟨un.1, fun c u => un.2.1 c (mem_allClasses c) u (mem_allUnits u), un.2.2.1,
          fun c c' u u' =>
            un.2.2.2 c (mem_allClasses c) c' (mem_allClasses c') u (mem_allUnits u) u' (mem_allUnits u')⟩
      queue :=
        ⟨fun i hi ho =>
            ⟨(q.1 i hi ho).1, (q.1 i hi ho).2.1, (q.1 i hi ho).2.2.1, (q.1 i hi ho).2.2.2.1,
              (q.1 i hi ho).2.2.2.2⟩,
          q.2.1, q.2.2.1, q.2.2.2.1, q.2.2.2.2.1, q.2.2.2.2.2.1, q.2.2.2.2.2.2⟩
      owners := ⟨ow.1, ow.2⟩
      fetch := ⟨fe.1, fe.2.1, fe.2.2.1, fe.2.2.2⟩ }

/-- `Quiescent`, evaluated. -/
def quiescentCheck (s : State) : Bool :=
  decide (s.status = .running ∧ s.cur.robEmpty = true ∧ s.cur.lsqEmpty = true ∧ s.cur.lsqInflight = false
    ∧ (∀ e ∈ s.cur.rs, e.empty = true) ∧ (∀ f ∈ s.cur.fu.units, f.busy = false ∧ f.finished = false)
    ∧ (s.cur.fetchStopped = false ∧ s.cur.jalrWait.valid = false)
    ∧ ∀ i : Reg, (slotGet s.cur.reg i).dirty = false)

theorem quiescent_of_check {s : State} (h : quiescentCheck s = true) : Quiescent s := by
  simp only [quiescentCheck, decide_eq_true_iff] at h
  exact ⟨h.1, h.2.1, h.2.2.1, h.2.2.2.1, h.2.2.2.2.1, h.2.2.2.2.2.1, h.2.2.2.2.2.2.1, h.2.2.2.2.2.2.2⟩

end Sys2Proof.Machine
end

