-- ==== Sys2Proof/Laws/PerInstr.lean ====
section
/-! SUPPORT. The family `WordShape`: the word of every instruction but END is spelled by the row of R109 that carries
its mnemonic, under whatever `END_WORD` the machine has. -/

namespace Sys2Proof.Laws

/-- Masking distributes over concatenation. -/
theorem append_and_append {m n : Nat} (a c : BitVec m) (b d : BitVec n) :
    (a ++ b) &&& (c ++ d) = (a &&& c) ++ (b &&& d) := by
  ext i hi
  simp only [BitVec.getElem_and, BitVec.getElem_append]
  split <;> rfl

theorem and_ones7 (x : BitVec 7) : x &&& 127#7 = x := BitVec.and_allOnes
theorem and_ones3 (x : BitVec 3) : x &&& 7#3 = x := BitVec.and_allOnes

/-- What the masks of R109 leave of each format: `opcode`, then `funct3` and `funct7` where the row checks them. -/
theorem iType_masked (imm : BitVec 12) (rs1 rd : Reg) (funct3 : BitVec 3) (op : BitVec 7) :
    iType imm rs1 funct3 rd op &&& 0x0000707F#32 = 0#12 ++ 0#5 ++ funct3 ++ 0#5 ++ op := by
  show (imm ++ rs1 ++ funct3 ++ rd ++ op) &&& (0#12 ++ 0#5 ++ 7#3 ++ 0#5 ++ 127#7) = _
  simp only [append_and_append, BitVec.and_zero, and_ones7, and_ones3]

theorem rType_masked (funct7 : BitVec 7) (rs2 rs1 rd : Reg) (funct3 : BitVec 3) (op : BitVec 7) :
    rType funct7 rs2 rs1 funct3 rd op &&& 0xFE00707F#32 = funct7 ++ 0#5 ++ 0#5 ++ funct3 ++ 0#5 ++ op := by
  show (funct7 ++ rs2 ++ rs1 ++ funct3 ++ rd ++ op) &&& (127#7 ++ 0#5 ++ 0#5 ++ 7#3 ++ 0#5 ++ 127#7) = _
  simp only [append_and_append, BitVec.and_zero, and_ones7, and_ones3]

theorem sType_masked (imm : BitVec 12) (rs2 rs1 : Reg) (funct3 : BitVec 3) (op : BitVec 7) :
    sType imm rs2 rs1 funct3 op &&& 0x0000707F#32 = 0#7 ++ 0#5 ++ 0#5 ++ funct3 ++ 0#5 ++ op := by
  show (imm.extractLsb' 5 7 ++ rs2 ++ rs1 ++ funct3 ++ imm.extractLsb' 0 5 ++ op)
    &&& (0#7 ++ 0#5 ++ 0#5 ++ 7#3 ++ 0#5 ++ 127#7) = _
  simp only [append_and_append, BitVec.and_zero, and_ones7, and_ones3]

theorem bType_masked (imm : BitVec 13) (rs2 rs1 : Reg) (funct3 : BitVec 3) (op : BitVec 7) :
    bType imm rs2 rs1 funct3 op &&& 0x0000707F#32
      = 0#1 ++ 0#6 ++ 0#5 ++ 0#5 ++ funct3 ++ 0#4 ++ 0#1 ++ op := by
  show (imm.extractLsb' 12 1 ++ imm.extractLsb' 5 6 ++ rs2 ++ rs1 ++ funct3 ++ imm.extractLsb' 1 4
    ++ imm.extractLsb' 11 1 ++ op) &&& (0#1 ++ 0#6 ++ 0#5 ++ 0#5 ++ 7#3 ++ 0#4 ++ 0#1 ++ 127#7) = _
  simp only [append_and_append, BitVec.and_zero, and_ones7, and_ones3]

theorem uType_masked (imm : BitVec 20) (rd : Reg) (op : BitVec 7) :
    uType imm rd op &&& 0x0000007F#32 = 0#20 ++ 0#5 ++ op := by
  show (imm ++ rd ++ op) &&& (0#20 ++ 0#5 ++ 127#7) = _
  simp only [append_and_append, BitVec.and_zero, and_ones7]

theorem jType_masked (imm : BitVec 21) (rd : Reg) (op : BitVec 7) :
    jType imm rd op &&& 0x0000007F#32 = 0#1 ++ 0#10 ++ 0#1 ++ 0#8 ++ 0#5 ++ op := by
  show (imm.extractLsb' 20 1 ++ imm.extractLsb' 1 10 ++ imm.extractLsb' 11 1 ++ imm.extractLsb' 12 8 ++ rd ++ op)
    &&& (0#1 ++ 0#10 ++ 0#1 ++ 0#8 ++ 0#5 ++ 127#7) = _
  simp only [append_and_append, BitVec.and_zero, and_ones7]

namespace WordShape

/-- The instruction's word is spelled by the row of R109 with its mnemonic. -/
def Statement (i : Instr) : Prop :=
  i ≠ .endProg → ∀ endWord : Word,
    ∃ r ∈ opcodeTable, r.mnemonic = i.mnemonic ∧ r.spells (encode endWord i) = true

theorem endProg : Statement .endProg := fun h => absurd rfl h

theorem lui (rd : Reg) (imm : BitVec 20) : Statement (.lui rd imm) := fun _ _ =>
  ⟨⟨"LUI", 0x00000037#32, 0x0000007F#32⟩, by decide, rfl, by simp only [OpRow.spells, encode, uType_masked]; decide⟩

theorem auipc (rd : Reg) (imm : BitVec 20) : Statement (.auipc rd imm) := fun _ _ =>
  ⟨⟨"AUIPC", 0x00000017#32, 0x0000007F#32⟩, by decide, rfl, by simp only [OpRow.spells, encode, uType_masked]; decide⟩

theorem jal (rd : Reg) (imm : BitVec 21) : Statement (.jal rd imm) := fun _ _ =>
  ⟨⟨"JAL", 0x0000006F#32, 0x0000007F#32⟩, by decide, rfl, by simp only [OpRow.spells, encode, jType_masked]; decide⟩

theorem jalr (rd : Reg) (rs1 : Reg) (imm : BitVec 12) : Statement (.jalr rd rs1 imm) := fun _ _ =>
  ⟨⟨"JALR", 0x00000067#32, 0x0000707F#32⟩, by decide, rfl, by simp only [OpRow.spells, encode, iType_masked]; decide⟩

theorem beq (rs1 : Reg) (rs2 : Reg) (imm : BitVec 13) : Statement (.beq rs1 rs2 imm) := fun _ _ =>
  ⟨⟨"BEQ", 0x00000063#32, 0x0000707F#32⟩, by decide, rfl, by simp only [OpRow.spells, encode, bType_masked]; decide⟩

theorem bne (rs1 : Reg) (rs2 : Reg) (imm : BitVec 13) : Statement (.bne rs1 rs2 imm) := fun _ _ =>
  ⟨⟨"BNE", 0x00001063#32, 0x0000707F#32⟩, by decide, rfl, by simp only [OpRow.spells, encode, bType_masked]; decide⟩

theorem blt (rs1 : Reg) (rs2 : Reg) (imm : BitVec 13) : Statement (.blt rs1 rs2 imm) := fun _ _ =>
  ⟨⟨"BLT", 0x00004063#32, 0x0000707F#32⟩, by decide, rfl, by simp only [OpRow.spells, encode, bType_masked]; decide⟩

theorem bge (rs1 : Reg) (rs2 : Reg) (imm : BitVec 13) : Statement (.bge rs1 rs2 imm) := fun _ _ =>
  ⟨⟨"BGE", 0x00005063#32, 0x0000707F#32⟩, by decide, rfl, by simp only [OpRow.spells, encode, bType_masked]; decide⟩

theorem bltu (rs1 : Reg) (rs2 : Reg) (imm : BitVec 13) : Statement (.bltu rs1 rs2 imm) := fun _ _ =>
  ⟨⟨"BLTU", 0x00006063#32, 0x0000707F#32⟩, by decide, rfl, by simp only [OpRow.spells, encode, bType_masked]; decide⟩

theorem bgeu (rs1 : Reg) (rs2 : Reg) (imm : BitVec 13) : Statement (.bgeu rs1 rs2 imm) := fun _ _ =>
  ⟨⟨"BGEU", 0x00007063#32, 0x0000707F#32⟩, by decide, rfl, by simp only [OpRow.spells, encode, bType_masked]; decide⟩

theorem lb (rd : Reg) (rs1 : Reg) (imm : BitVec 12) : Statement (.lb rd rs1 imm) := fun _ _ =>
  ⟨⟨"LB", 0x00000003#32, 0x0000707F#32⟩, by decide, rfl, by simp only [OpRow.spells, encode, iType_masked]; decide⟩

theorem lh (rd : Reg) (rs1 : Reg) (imm : BitVec 12) : Statement (.lh rd rs1 imm) := fun _ _ =>
  ⟨⟨"LH", 0x00001003#32, 0x0000707F#32⟩, by decide, rfl, by simp only [OpRow.spells, encode, iType_masked]; decide⟩

theorem lw (rd : Reg) (rs1 : Reg) (imm : BitVec 12) : Statement (.lw rd rs1 imm) := fun _ _ =>
  ⟨⟨"LW", 0x00002003#32, 0x0000707F#32⟩, by decide, rfl, by simp only [OpRow.spells, encode, iType_masked]; decide⟩

theorem lbu (rd : Reg) (rs1 : Reg) (imm : BitVec 12) : Statement (.lbu rd rs1 imm) := fun _ _ =>
  ⟨⟨"LBU", 0x00004003#32, 0x0000707F#32⟩, by decide, rfl, by simp only [OpRow.spells, encode, iType_masked]; decide⟩

theorem lhu (rd : Reg) (rs1 : Reg) (imm : BitVec 12) : Statement (.lhu rd rs1 imm) := fun _ _ =>
  ⟨⟨"LHU", 0x00005003#32, 0x0000707F#32⟩, by decide, rfl, by simp only [OpRow.spells, encode, iType_masked]; decide⟩

theorem sb (rs1 : Reg) (rs2 : Reg) (imm : BitVec 12) : Statement (.sb rs1 rs2 imm) := fun _ _ =>
  ⟨⟨"SB", 0x00000023#32, 0x0000707F#32⟩, by decide, rfl, by simp only [OpRow.spells, encode, sType_masked]; decide⟩

theorem sh (rs1 : Reg) (rs2 : Reg) (imm : BitVec 12) : Statement (.sh rs1 rs2 imm) := fun _ _ =>
  ⟨⟨"SH", 0x00001023#32, 0x0000707F#32⟩, by decide, rfl, by simp only [OpRow.spells, encode, sType_masked]; decide⟩

theorem sw (rs1 : Reg) (rs2 : Reg) (imm : BitVec 12) : Statement (.sw rs1 rs2 imm) := fun _ _ =>
  ⟨⟨"SW", 0x00002023#32, 0x0000707F#32⟩, by decide, rfl, by simp only [OpRow.spells, encode, sType_masked]; decide⟩

theorem addi (rd : Reg) (rs1 : Reg) (imm : BitVec 12) : Statement (.addi rd rs1 imm) := fun _ _ =>
  ⟨⟨"ADDI", 0x00000013#32, 0x0000707F#32⟩, by decide, rfl, by simp only [OpRow.spells, encode, iType_masked]; decide⟩

theorem slti (rd : Reg) (rs1 : Reg) (imm : BitVec 12) : Statement (.slti rd rs1 imm) := fun _ _ =>
  ⟨⟨"SLTI", 0x00002013#32, 0x0000707F#32⟩, by decide, rfl, by simp only [OpRow.spells, encode, iType_masked]; decide⟩

theorem sltiu (rd : Reg) (rs1 : Reg) (imm : BitVec 12) : Statement (.sltiu rd rs1 imm) := fun _ _ =>
  ⟨⟨"SLTIU", 0x00003013#32, 0x0000707F#32⟩, by decide, rfl, by simp only [OpRow.spells, encode, iType_masked]; decide⟩

theorem xori (rd : Reg) (rs1 : Reg) (imm : BitVec 12) : Statement (.xori rd rs1 imm) := fun _ _ =>
  ⟨⟨"XORI", 0x00004013#32, 0x0000707F#32⟩, by decide, rfl, by simp only [OpRow.spells, encode, iType_masked]; decide⟩

theorem ori (rd : Reg) (rs1 : Reg) (imm : BitVec 12) : Statement (.ori rd rs1 imm) := fun _ _ =>
  ⟨⟨"ORI", 0x00006013#32, 0x0000707F#32⟩, by decide, rfl, by simp only [OpRow.spells, encode, iType_masked]; decide⟩

theorem andi (rd : Reg) (rs1 : Reg) (imm : BitVec 12) : Statement (.andi rd rs1 imm) := fun _ _ =>
  ⟨⟨"ANDI", 0x00007013#32, 0x0000707F#32⟩, by decide, rfl, by simp only [OpRow.spells, encode, iType_masked]; decide⟩

theorem slli (rd : Reg) (rs1 : Reg) (shamt : BitVec 5) : Statement (.slli rd rs1 shamt) := fun _ _ =>
  ⟨⟨"SLLI", 0x00001013#32, 0xFE00707F#32⟩, by decide, rfl, by simp only [OpRow.spells, encode, rType_masked]; decide⟩

theorem srli (rd : Reg) (rs1 : Reg) (shamt : BitVec 5) : Statement (.srli rd rs1 shamt) := fun _ _ =>
  ⟨⟨"SRLI", 0x00005013#32, 0xFE00707F#32⟩, by decide, rfl, by simp only [OpRow.spells, encode, rType_masked]; decide⟩

theorem srai (rd : Reg) (rs1 : Reg) (shamt : BitVec 5) : Statement (.srai rd rs1 shamt) := fun _ _ =>
  ⟨⟨"SRAI", 0x40005013#32, 0xFE00707F#32⟩, by decide, rfl, by simp only [OpRow.spells, encode, rType_masked]; decide⟩

theorem add (rd : Reg) (rs1 : Reg) (rs2 : Reg) : Statement (.add rd rs1 rs2) := fun _ _ =>
  ⟨⟨"ADD", 0x00000033#32, 0xFE00707F#32⟩, by decide, rfl, by simp only [OpRow.spells, encode, rType_masked]; decide⟩

theorem sub (rd : Reg) (rs1 : Reg) (rs2 : Reg) : Statement (.sub rd rs1 rs2) := fun _ _ =>
  ⟨⟨"SUB", 0x40000033#32, 0xFE00707F#32⟩, by decide, rfl, by simp only [OpRow.spells, encode, rType_masked]; decide⟩

theorem sll (rd : Reg) (rs1 : Reg) (rs2 : Reg) : Statement (.sll rd rs1 rs2) := fun _ _ =>
  ⟨⟨"SLL", 0x00001033#32, 0xFE00707F#32⟩, by decide, rfl, by simp only [OpRow.spells, encode, rType_masked]; decide⟩

theorem slt (rd : Reg) (rs1 : Reg) (rs2 : Reg) : Statement (.slt rd rs1 rs2) := fun _ _ =>
  ⟨⟨"SLT", 0x00002033#32, 0xFE00707F#32⟩, by decide, rfl, by simp only [OpRow.spells, encode, rType_masked]; decide⟩

theorem sltu (rd : Reg) (rs1 : Reg) (rs2 : Reg) : Statement (.sltu rd rs1 rs2) := fun _ _ =>
  ⟨⟨"SLTU", 0x00003033#32, 0xFE00707F#32⟩, by decide, rfl, by simp only [OpRow.spells, encode, rType_masked]; decide⟩

theorem xor (rd : Reg) (rs1 : Reg) (rs2 : Reg) : Statement (.xor rd rs1 rs2) := fun _ _ =>
  ⟨⟨"XOR", 0x00004033#32, 0xFE00707F#32⟩, by decide, rfl, by simp only [OpRow.spells, encode, rType_masked]; decide⟩

theorem srl (rd : Reg) (rs1 : Reg) (rs2 : Reg) : Statement (.srl rd rs1 rs2) := fun _ _ =>
  ⟨⟨"SRL", 0x00005033#32, 0xFE00707F#32⟩, by decide, rfl, by simp only [OpRow.spells, encode, rType_masked]; decide⟩

theorem sra (rd : Reg) (rs1 : Reg) (rs2 : Reg) : Statement (.sra rd rs1 rs2) := fun _ _ =>
  ⟨⟨"SRA", 0x40005033#32, 0xFE00707F#32⟩, by decide, rfl, by simp only [OpRow.spells, encode, rType_masked]; decide⟩

theorem or (rd : Reg) (rs1 : Reg) (rs2 : Reg) : Statement (.or rd rs1 rs2) := fun _ _ =>
  ⟨⟨"OR", 0x00006033#32, 0xFE00707F#32⟩, by decide, rfl, by simp only [OpRow.spells, encode, rType_masked]; decide⟩

theorem and (rd : Reg) (rs1 : Reg) (rs2 : Reg) : Statement (.and rd rs1 rs2) := fun _ _ =>
  ⟨⟨"AND", 0x00007033#32, 0xFE00707F#32⟩, by decide, rfl, by simp only [OpRow.spells, encode, rType_masked]; decide⟩

end WordShape

end Sys2Proof.Laws
end

