-- ==== Sys2Proof/Tests/Slice0.lean ====
section
/-! SUPPORT. The model's own tests. Expected values come from spec/95_test_vectors.md and the examples of the
instruction rules, each named in a comment; the words are those the spec writes out. The last part shows, for every
statement with hypotheses, a concrete state or operands that meet them. -/

set_option Elab.async false

namespace Sys2Proof.Tests

open Sys2Proof Sys2Proof.Machine

/-- The default `END_WORD`. -/
def END : Word := 0x0FF00513#32

/-! ### Decoding: one word of every instruction (95 sections 2 to 7) -/

theorem test_decode_end : decode END 0x0FF00513#32 = .ok .endProg := by decide
theorem test_decode_lui : decode END 0x123452B7#32 = .ok (.lui 5#5 0x12345#20) := by decide
theorem test_decode_auipc : decode END 0x12345217#32 = .ok (.auipc 4#5 0x12345#20) := by decide
theorem test_decode_jal :
    decode END 0x001000EF#32 = .ok (.jal 1#5 0x000800#21) ∧ decode END 0x800000EF#32 = .ok (.jal 1#5 0x100000#21)
      ∧ decode END 0x7FFFF0EF#32 = .ok (.jal 1#5 0x0FFFFE#21) ∧ decode END 0x000010EF#32 = .ok (.jal 1#5 0x001000#21) := by
  decide
theorem test_decode_jalr : decode END 0xFFE280E7#32 = .ok (.jalr 1#5 5#5 0xFFE#12) := by decide
theorem test_decode_beq :
    decode END 0x80208063#32 = .ok (.beq 1#5 2#5 0x1000#13) ∧ decode END 0x7E208FE3#32 = .ok (.beq 1#5 2#5 0x0FFE#13) := by
  decide
theorem test_decode_bne : decode END 0x00419163#32 = .ok (.bne 3#5 4#5 0x0002#13) := by decide
theorem test_decode_blt : decode END 0x0083C0E3#32 = .ok (.blt 7#5 8#5 0x0800#13) := by decide
theorem test_decode_bge : decode END 0xFE20D8E3#32 = .ok (.bge 1#5 2#5 0x1FF0#13) := by decide
theorem test_decode_bltu : decode END 0x7E20EFE3#32 = .ok (.bltu 1#5 2#5 0x0FFE#13) := by decide
theorem test_decode_bgeu : decode END 0xFE62FFE3#32 = .ok (.bgeu 5#5 6#5 0x1FFE#13) := by decide
theorem test_decode_lb : decode END 0xFFF28303#32 = .ok (.lb 6#5 5#5 0xFFF#12) := by decide
theorem test_decode_lh : decode END 0x00229303#32 = .ok (.lh 6#5 5#5 0x002#12) := by decide
theorem test_decode_lw : decode END 0xFFC22183#32 = .ok (.lw 3#5 4#5 0xFFC#12) := by decide
theorem test_decode_lbu : decode END 0x0002C383#32 = .ok (.lbu 7#5 5#5 0x000#12) := by decide
theorem test_decode_lhu : decode END 0x0002D383#32 = .ok (.lhu 7#5 5#5 0x000#12) := by decide
theorem test_decode_sb : decode END 0x80638023#32 = .ok (.sb 7#5 6#5 0x800#12) := by decide
theorem test_decode_sh : decode END 0x55FF9AA3#32 = .ok (.sh 31#5 31#5 0x555#12) := by decide
theorem test_decode_sw : decode END 0x7E63AFA3#32 = .ok (.sw 7#5 6#5 0x7FF#12) := by decide
theorem test_decode_addi :
    decode END 0x80010093#32 = .ok (.addi 1#5 2#5 0x800#12) ∧ decode END 0x0FF00593#32 = .ok (.addi 11#5 0#5 0x0FF#12)
      ∧ decode END 0x0FE00513#32 = .ok (.addi 10#5 0#5 0x0FE#12) := by
  decide
theorem test_decode_slti : decode END 0x8000A193#32 = .ok (.slti 3#5 1#5 0x800#12) := by decide
theorem test_decode_sltiu : decode END 0xFFF0B193#32 = .ok (.sltiu 3#5 1#5 0xFFF#12) := by decide
theorem test_decode_xori : decode END 0xFFF0C193#32 = .ok (.xori 3#5 1#5 0xFFF#12) := by decide
theorem test_decode_ori : decode END 0x7FF0E193#32 = .ok (.ori 3#5 1#5 0x7FF#12) := by decide
theorem test_decode_andi : decode END 0xF000F193#32 = .ok (.andi 3#5 1#5 0xF00#12) := by decide
theorem test_decode_slli : decode END 0x01F11093#32 = .ok (.slli 1#5 2#5 31#5) := by decide
theorem test_decode_srli : decode END 0x00115093#32 = .ok (.srli 1#5 2#5 1#5) := by decide
theorem test_decode_srai : decode END 0x41F15093#32 = .ok (.srai 1#5 2#5 31#5) := by decide
theorem test_decode_add : decode END 0x002081B3#32 = .ok (.add 3#5 1#5 2#5) := by decide
theorem test_decode_sub : decode END 0x402081B3#32 = .ok (.sub 3#5 1#5 2#5) := by decide
theorem test_decode_sll : decode END 0x002091B3#32 = .ok (.sll 3#5 1#5 2#5) := by decide
theorem test_decode_slt : decode END 0x0020A1B3#32 = .ok (.slt 3#5 1#5 2#5) := by decide
theorem test_decode_sltu : decode END 0x0020B1B3#32 = .ok (.sltu 3#5 1#5 2#5) := by decide
theorem test_decode_xor : decode END 0x0020C1B3#32 = .ok (.xor 3#5 1#5 2#5) := by decide
theorem test_decode_srl : decode END 0x0020D1B3#32 = .ok (.srl 3#5 1#5 2#5) := by decide
theorem test_decode_sra : decode END 0x4020D1B3#32 = .ok (.sra 3#5 1#5 2#5) := by decide
theorem test_decode_or : decode END 0x0020E1B3#32 = .ok (.or 3#5 1#5 2#5) := by decide
theorem test_decode_and : decode END 0x0020F1B3#32 = .ok (.and 3#5 1#5 2#5) := by decide

/-- Section 2, "Decode outcomes": the rejected words, by the field that rejects them. -/
theorem test_decode_rejects_opcodes :
    [0x00000000#32, 0xFFFFFFFF#32, 0x00000001#32, 0x00000073#32, 0x00100073#32, 0x30200073#32, 0x10500073#32,
      0xC0001073#32, 0x0000000F#32, 0x0000100F#32].all (fun w => decode END w == .error .majorOpcode) = true := by
  decide +kernel
theorem test_decode_rejects_funct3 :
    [0x00001067#32, 0x00002063#32, 0x00003003#32, 0x00003023#32].all
      (fun w => decode END w == .error .funct3) = true := by
  decide +kernel
theorem test_decode_rejects_funct7 :
    [0x02208033#32, 0x40001033#32, 0x02001013#32, 0x20005013#32].all
      (fun w => decode END w == .error .funct7) = true := by
  decide +kernel
theorem test_decode_bytes_little_endian :
    decodeBytes END [0x93#8, 0x00#8, 0x50#8, 0x00#8, 0x13#8] = .ok (.addi 1#5 0#5 5#12, [0x13#8])
      ∧ decodeBytes END [0x93#8, 0x00#8, 0x50#8] = .error .truncated := by decide
theorem test_decodeTableWord :
    decodeTableWord 32 0x123452B7 = some (.lui 5#5 0x12345#20) ∧ decodeTableWord 32 0x73 = none := by decide

/-! ### WellFormed: ill-formed terms the check refuses, and the hidden word of END -/

theorem test_wellFormed_refuses_odd_offsets :
    (Instr.jal 1#5 1#21).wellFormed = false ∧ (Instr.beq 1#5 2#5 3#13).wellFormed = false
      ∧ (Instr.bne 1#5 2#5 3#13).wellFormed = false ∧ (Instr.blt 1#5 2#5 3#13).wellFormed = false
      ∧ (Instr.bge 1#5 2#5 3#13).wellFormed = false ∧ (Instr.bltu 1#5 2#5 3#13).wellFormed = false
      ∧ (Instr.bgeu 1#5 2#5 0x1FFF#13).wellFormed = false := by decide
theorem test_wellFormed_accepts_even_offsets :
    (Instr.jal 1#5 0x1FFFFE#21).wellFormed = true ∧ (Instr.beq 1#5 2#5 0x1000#13).wellFormed = true := by decide
theorem test_spellsEnd :
    (Instr.addi 10#5 0#5 255#12).spellsEnd END = true ∧ (Instr.addi 11#5 0#5 255#12).spellsEnd END = false
      ∧ (Instr.addi 10#5 0#5 255#12).decodable END = false := by decide

/-! ### Execute: the vectors of section 3 and the branch conditions of section 4 -/

theorem test_execute_add :
    execute .add 0x7FFFFFFF#32 1#32 = 0x80000000#32 ∧ execute .add 0xFFFFFFFF#32 1#32 = 0#32
      ∧ execute .add 3#32 4#32 = 7#32 := by decide
theorem test_execute_sub :
    execute .sub 0#32 1#32 = 0xFFFFFFFF#32 ∧ execute .sub 0x80000000#32 1#32 = 0x7FFFFFFF#32 := by decide
theorem test_execute_sll :
    execute .sll 1#32 31#32 = 0x80000000#32 ∧ execute .sll 1#32 32#32 = 1#32 ∧ execute .sll 3#32 33#32 = 6#32 := by decide
theorem test_execute_srl :
    execute .srl 0x80000000#32 31#32 = 1#32 ∧ execute .srl 0x80000000#32 32#32 = 0x80000000#32 := by decide
theorem test_execute_sra :
    execute .sra 0x80000000#32 4#32 = 0xF8000000#32 ∧ execute .sra 0x7FFFFFFF#32 4#32 = 0x07FFFFFF#32
      ∧ execute .sra 0x80000000#32 63#32 = 0xFFFFFFFF#32 := by decide
theorem test_execute_slt :
    execute .slt 0xFFFFFFFF#32 0#32 = 1#32 ∧ execute .slt 0x80000000#32 0x7FFFFFFF#32 = 1#32
      ∧ execute .slt 5#32 5#32 = 0#32 := by decide
theorem test_execute_sltu :
    execute .sltu 0xFFFFFFFF#32 0#32 = 0#32 ∧ execute .sltu 0#32 0xFFFFFFFF#32 = 1#32 := by decide
theorem test_execute_xor : execute .xor 0x0F0F0F0F#32 0x00FF00FF#32 = 0x0FF00FF0#32 := by decide
theorem test_execute_or : execute .or 0x0F0F0F0F#32 0x00FF00FF#32 = 0x0FFF0FFF#32 := by decide
theorem test_execute_and : execute .and 0x0F0F0F0F#32 0x00FF00FF#32 = 0x000F000F#32 := by decide
theorem test_execute_beq_bne :
    execute .beq 5#32 5#32 = 1#32 ∧ execute .beq 5#32 6#32 = 0#32 ∧ execute .bne 5#32 5#32 = 0#32
      ∧ execute .bne 5#32 6#32 = 1#32 := by decide
theorem test_execute_blt_bge :
    execute .blt 0xFFFFFFFF#32 0#32 = 1#32 ∧ execute .blt 5#32 5#32 = 0#32 ∧ execute .bge 5#32 5#32 = 1#32
      ∧ execute .bge 0x80000000#32 0x7FFFFFFF#32 = 0#32 := by decide
theorem test_execute_bltu_bgeu :
    execute .bltu 0xFFFFFFFF#32 0#32 = 0#32 ∧ execute .bltu 0#32 0xFFFFFFFF#32 = 1#32
      ∧ execute .bgeu 0#32 0xFFFFFFFF#32 = 0#32 ∧ execute .bgeu 5#32 5#32 = 1#32 := by decide

/-! ### Architectural effects (sections 3 to 5) -/

/-- An interpreter state with two registers set. -/
def arch (pc : Word) (r : Reg) (v : Word) (q : Reg) (u : Word) (m : Memory) : Arch :=
  { (Arch.write (Arch.write ⟨Vector.replicate 32 0#32, pc, m⟩ r v) q u) with pc := pc }

/-- The bytes of section 5 at 0x1000. -/
def loadBytes : Memory :=
  memWrite (memWrite [] 0x1000#32 4 0x017FFF80#32) 0x1004#32 4 0x000000FE#32

/-- The register `rd` after one instruction, with `x5` and `x6` set. -/
def resultOf (i : Instr) (rd : Reg) (pc x5 x6 : Word) (m : Memory) : Word × Word :=
  let t := archEffect .pcPlusImmNoWrite i (arch pc 5#5 x5 6#5 x6 m)
  (t.read rd, t.pc)

theorem test_effect_addi :
    resultOf (.addi 3#5 5#5 0x800#12) 3#5 0#32 5#32 0#32 [] = (0xFFFFF805#32, 4#32) := by decide
theorem test_effect_slti : resultOf (.slti 3#5 5#5 0#12) 3#5 0#32 0xFFFFFFFF#32 0#32 [] = (1#32, 4#32) := by decide
theorem test_effect_sltiu : resultOf (.sltiu 3#5 5#5 0xFFF#12) 3#5 0#32 0#32 0#32 [] = (1#32, 4#32) := by decide
theorem test_effect_xori :
    resultOf (.xori 3#5 5#5 0xFFF#12) 3#5 0#32 0x0F0F0F0F#32 0#32 [] = (0xF0F0F0F0#32, 4#32) := by decide
theorem test_effect_ori : resultOf (.ori 3#5 5#5 0x800#12) 3#5 0#32 0#32 0#32 [] = (0xFFFFF800#32, 4#32) := by decide
theorem test_effect_andi :
    resultOf (.andi 3#5 5#5 0xF00#12) 3#5 0#32 0x12345678#32 0#32 [] = (0x12345600#32, 4#32) := by decide
theorem test_effect_slli : resultOf (.slli 3#5 5#5 1#5) 3#5 0#32 0x80000001#32 0#32 [] = (2#32, 4#32) := by decide
theorem test_effect_srli :
    resultOf (.srli 3#5 5#5 1#5) 3#5 0#32 0x80000001#32 0#32 [] = (0x40000000#32, 4#32) := by decide
theorem test_effect_srai :
    resultOf (.srai 3#5 5#5 1#5) 3#5 0#32 0x80000001#32 0#32 [] = (0xC0000000#32, 4#32) := by decide
theorem test_effect_sub_operand_order :
    resultOf (.sub 3#5 5#5 6#5) 3#5 0#32 0#32 1#32 [] = (0xFFFFFFFF#32, 4#32) := by decide
theorem test_effect_lui : resultOf (.lui 5#5 0x12345#20) 5#5 0#32 0#32 0#32 [] = (0x12345000#32, 4#32) := by decide
theorem test_effect_jal :
    resultOf (.jal 1#5 8#21) 1#5 0x10#32 0#32 0#32 [] = (0x14#32, 0x18#32)
      ∧ resultOf (.jal 1#5 8#21) 1#5 0xFFFFFFFC#32 0#32 0#32 [] = (0#32, 4#32) := by decide
theorem test_effect_jalr :
    resultOf (.jalr 1#5 5#5 4#12) 1#5 0x100#32 0x201#32 0#32 [] = (0x104#32, 0x204#32)
      ∧ resultOf (.jalr 5#5 5#5 0#12) 5#5 0x100#32 0x40#32 0#32 [] = (0x104#32, 0x40#32) := by decide
theorem test_effect_auipc_modes :
    (archEffect .pcPlusImmNoWrite (.auipc 5#5 1#20) (arch 0x10#32 5#5 7#32 6#5 0#32 [])).pc = 0x1010#32
      ∧ (archEffect .pcPlus4NoWrite (.auipc 5#5 1#20) (arch 0x10#32 5#5 7#32 6#5 0#32 [])).pc = 0x14#32
      ∧ (archEffect .rv32i (.auipc 5#5 1#20) (arch 0x10#32 5#5 7#32 6#5 0#32 [])).read 5#5 = 0x1010#32
      ∧ (archEffect .pcPlusImmNoWrite (.auipc 5#5 1#20) (arch 0x10#32 5#5 7#32 6#5 0#32 [])).read 5#5 = 7#32 := by
  decide
theorem test_effect_beq_bne :
    (resultOf (.beq 5#5 6#5 8#13) 0#5 0x10#32 7#32 7#32 []).2 = 0x18#32
      ∧ (resultOf (.beq 5#5 6#5 8#13) 0#5 0x10#32 7#32 8#32 []).2 = 0x14#32
      ∧ (resultOf (.bne 5#5 6#5 0x1FF8#13) 0#5 0x10#32 1#32 0#32 []).2 = 0x08#32 := by decide
theorem test_effect_blt_bge :
    (resultOf (.blt 5#5 6#5 16#13) 0#5 0x100#32 0xFFFFFFFF#32 0#32 []).2 = 0x110#32
      ∧ (resultOf (.bge 5#5 6#5 0x1FF0#13) 0#5 0x100#32 0xFFFFFFFF#32 0#32 []).2 = 0x104#32 := by decide
theorem test_effect_bltu_bgeu :
    (resultOf (.bltu 5#5 6#5 0x0FFE#13) 0#5 0x100#32 0#32 0xFFFFFFFF#32 []).2 = 0x10FE#32
      ∧ (resultOf (.bgeu 5#5 6#5 0x1000#13) 0#5 0x2000#32 5#32 5#32 []).2 = 0x1000#32 := by decide
theorem test_effect_lb :
    (resultOf (.lb 7#5 5#5 0#12) 7#5 0#32 0x1000#32 0#32 loadBytes).1 = 0xFFFFFF80#32
      ∧ (resultOf (.lb 7#5 5#5 2#12) 7#5 0#32 0x1000#32 0#32 loadBytes).1 = 0x0000007F#32 := by decide
theorem test_effect_lbu :
    (resultOf (.lbu 7#5 5#5 0#12) 7#5 0#32 0x1000#32 0#32 loadBytes).1 = 0x00000080#32 := by decide
theorem test_effect_lh :
    (resultOf (.lh 7#5 5#5 3#12) 7#5 0#32 0x1000#32 0#32 loadBytes).1 = 0xFFFFFE01#32
      ∧ (resultOf (.lh 7#5 5#5 1#12) 7#5 0#32 0x1000#32 0#32 loadBytes).1 = 0x00007FFF#32 := by decide
theorem test_effect_lhu :
    (resultOf (.lhu 7#5 5#5 0#12) 7#5 0#32 0x1000#32 0#32 loadBytes).1 = 0x0000FF80#32 := by decide
theorem test_effect_lw :
    (resultOf (.lw 7#5 5#5 1#12) 7#5 0#32 0x1000#32 0#32 loadBytes).1 = 0xFE017FFF#32
      ∧ resultOf (.lw 0#5 5#5 0#12) 0#5 0#32 0x1000#32 0#32 loadBytes = (0#32, 4#32) := by decide

/-- Memory after one store of `0xA1B2C3D4`, as listed bytes (section 5). -/
def storedBy (i : Instr) : Memory :=
  (archEffect .pcPlusImmNoWrite i (arch 0#32 5#5 0x1000#32 6#5 0xA1B2C3D4#32 [])).mem

theorem test_effect_sb : storedBy (.sb 5#5 6#5 3#12) = [(0x1003, 0xD4#8)] := by decide
theorem test_effect_sh : storedBy (.sh 5#5 6#5 3#12) = [(0x1003, 0xD4#8), (0x1004, 0xC3#8)] := by decide
theorem test_effect_sw :
    storedBy (.sw 5#5 6#5 2#12) = [(0x1002, 0xD4#8), (0x1003, 0xC3#8), (0x1004, 0xB2#8), (0x1005, 0xA1#8)] := by decide
/-- R63's example, and the canonical form: a byte written back to 0 leaves the list. -/
theorem test_memory_bytes :
    let m := memWrite [] 0x2000#32 4 0x11223344#32
    memRead1 m 0x2000#32 = 0x44#8 ∧ memRead1 m 0x2001#32 = 0x33#8 ∧ memRead2 m 0x2002#32 = 0x1122#16
      ∧ memWrite m 0x2000#32 4 0#32 = [] := by decide
/-- R64: the addresses of an access wrap at the top of the address space. -/
theorem test_memory_wraps :
    memRead4 (memWrite [] 0xFFFFFFFE#32 4 0x11223344#32) 0xFFFFFFFE#32 = 0x11223344#32
      ∧ readByte (memWrite [] 0xFFFFFFFE#32 4 0x11223344#32) 1#32 = 0x11#8 := by decide

/-! ### The predictor (section 6) -/

/-- Six taken outcomes from a reset bucket: only the sixth is predicted. -/
theorem test_predictor_always_taken :
    let b5 := ((((Bucket.reset.train true).train true).train true).train true).train true
    Bucket.reset.prediction = false ∧ b5.hist = 0b1111#4 ∧ b5.prediction = true := by decide
theorem test_predictor_alternating :
    let b := (((Bucket.reset.train true).train false).train true).train false
    b.hist = 0b1010#4 ∧ b.look 5#4 = false ∧ b.look 2#4 = true ∧ b.prediction = false := by decide
theorem test_predictor_bucket_aliasing :
    bucketIndex 0x10#32 = bucketIndex 0x1010#32 ∧ bucketIndex 0x10#32 ≠ bucketIndex 0x12#32 := by decide

/-! ### One step from reset -/

/-- What the first step after reset makes of the word `w`, seen through `f`; none where it stops. -/
def firstStep {α : Type} (w : Nat) (f : State → α) : Option α :=
  match step (State.reset.withFetchWord 32 w) with
  | .next t => some (f t)
  | .fault _ | .refused _ => none

theorem test_step_end :
    firstStep 0x0FF00513 (fun t => (t.cur.fetchStopped, t.cur.pc, t.cur.robTail)) = some (true, 0#32, 1#5) := by
  decide +kernel
theorem test_step_lui :
    firstStep 0x123452B7 (fun t => (slotGet t.cur.rob 0#5, slotGet t.cur.reg 5#5, t.cur.pc))
      = some (⟨true, false, .registerWrite, 5#32, 0x12345000#32, 0#32⟩, ⟨0#32, true, 0#5⟩, 4#32) := by
  decide +kernel
/-- `lui x0, 1`: a RoB entry is used, nothing is renamed. -/
theorem test_step_lui_x0 :
    firstStep 0x00001037 (fun t => (t.cur.robTail, slotGet t.cur.reg 0#5)) = some (1#5, ⟨0#32, false, 0#5⟩) := by
  decide +kernel
theorem test_step_auipc :
    firstStep 0x00001297 (fun t => (t.cur.pc, t.cur.robTail, (slotGet t.cur.reg 5#5).dirty))
      = some (0x1000#32, 0#5, false) := by
  decide +kernel
theorem test_step_jal :
    firstStep 0x008000EF (fun t => ((slotGet t.cur.rob 0#5).value, t.cur.pc)) = some (4#32, 8#32) := by
  decide +kernel
theorem test_step_jalr :
    firstStep 0xFFE000E7 (fun t => ((slotGet t.cur.rob 0#5).value, t.cur.pc, t.cur.jalrWait.valid))
      = some (4#32, 0xFFFFFFFE#32, false) := by
  decide +kernel
/-- After reset a branch is predicted not taken; its entry keeps the taken target and its own pc. -/
theorem test_step_beq :
    firstStep 0x00208463 (fun t => (slotGet t.cur.rob 0#5, (t.cur.rsAt 0).op, t.cur.pc))
      = some (⟨false, false, .branch, 8#32, 0#32, 0#32⟩, .beq, 4#32) := by
  decide +kernel
theorem test_step_addi :
    firstStep 0x00500093 (fun t => (t.cur.rsAt 0, slotGet t.cur.reg 1#5, t.cur.pc))
      = some (⟨false, false, false, .addi, false, 0#5, 0#32, false, 0#5, 5#32, 0#5⟩, ⟨0#32, true, 0#5⟩, 4#32) := by
  decide +kernel
theorem test_step_lw :
    firstStep 0xFFC2A383 (fun t => (t.cur.lsqAt 0, t.cur.lsqTail, (slotGet t.cur.reg 7#5).dirty))
      = some (⟨true, false, 0#5, false, 0#5, .lw, 0#32, 0xFFFFFFFC#32, 0#32, 0#5⟩, 1, true) := by
  decide +kernel
theorem test_step_sw :
    firstStep 0x0062A023 (fun t => (t.cur.lsqAt 0, slotGet t.cur.rob 0#5))
      = some (⟨false, false, 0#5, false, 0#5, .sw, 0#32, 0#32, 0#32, 0#5⟩,
          ⟨false, false, .memoryWrite, 0#32, 0#32, 0#32⟩) := by
  decide +kernel
/-- P8: unloaded memory is not decodable. -/
theorem test_step_decode_error :
    (match step State.reset with
      | .fault f => some f
      | .next _ | .refused _ => none) = some (.fatal (.decodeError 0#32)) := by
  decide +kernel
theorem test_afterFatal_has_no_result : (State.reset.afterFatal (.decodeError 0#32)).result = none := by decide +kernel

/-! ### Witnesses: concrete states and operands that meet the hypotheses of the statements -/

/-- The smallest machine: one reservation-station entry, a queue that holds one access. -/
def small : Config := { Config.default with rsSize := 1, lsqSize := 2 }

/-- A machine with the words `ws` loaded, after reset. -/
def loaded (c : Config) (ws : List (Word × Word)) : State :=
  ws.foldl (fun s w => s.withWordAt w.1 w.2) (State.resetWith c)

/-- The step answers a next state. -/
def goes (s : State) : Bool :=
  match step s with
  | .next _ => true
  | .fault _ | .refused _ => false

/-- The state after `n` steps; a step that stops leaves the state as it is. -/
def after : Nat → State → State
  | 0, s => s
  | n + 1, s =>
    match step s with
    | .next t => after n t
    | .fault _ | .refused _ => s

theorem step_after {s : State} (h : goes s = true) : step s = .next (after 1 s) := by
  unfold goes at h
  unfold after
  cases hs : step s <;> simp_all [after]

/-- The answer is a next state, and it meets `p`. -/
def nextWith (r : Result) (p : State → Bool) : Bool :=
  match r with
  | .next t => p t
  | .fault _ | .refused _ => false

theorem next_of_nextWith {r : Result} {p : State → Bool} (h : nextWith r p = true) :
    ∃ t, r = .next t ∧ p t = true := by
  cases r <;> simp_all [nextWith]

/-! #### States -/

/-- `addi x1, x0, 5; END`, with the addi in the reservation station, ready to issue. -/
def sIssue : State := after 1 (loaded small [(0#32, 0x00500093#32), (4#32, END)])
/-- The same, one cycle later: the unit holds the result, END is in the reorder buffer. -/
def sUnit : State := after 1 sIssue
/-- `addi x1, x0, 5; addi x1, x1, 5`: the second waits for the first. -/
def sWait : State := after 2 (loaded Config.default [(0#32, 0x00500093#32), (4#32, 0x00508093#32), (8#32, END)])
/-- The same when the first result is in the reorder buffer. -/
def sWake : State := after 1 sWait
/-- END at the head of the reorder buffer. -/
def sEnd : State := after 1 (loaded small [(0#32, END)])
/-- `lui x1, 1; END`, with the lui's entry at the head, ready. -/
def sReg : State := after 1 (loaded small [(0#32, 0x000010B7#32), (4#32, END)])
/-- `lui x1, 1; lui x1, 2`: both entries allocated, the first at the head, the register depending on the second. -/
def sReg2 : State :=
  let s := after 1 (loaded small [(0#32, 0x000010B7#32), (4#32, 0x000020B7#32), (8#32, END)])
  { s with cur.robTail := 2#5, cur.rob := slotSet s.cur.rob 1#5 ⟨true, false, .registerWrite, 1#32, 0x2000#32, 0#32⟩,
           cur.reg := slotSet s.cur.reg 1#5 ⟨0#32, true, 1#5⟩ }
/-- `lw x1, 0(x0)` with its access in the last cycle. -/
def sLoad : State := after 4 (loaded small [(0#32, 0x00002083#32), (4#32, END)])
/-- `sw x1, 8(x0)` in the queue with its operands, its entry not yet ready. -/
def sStore : State := after 1 (loaded small [(0#32, 0x00102423#32), (4#32, END)])
/-- The same with the entry ready at the head. -/
def sStoreHead : State := after 1 sStore
/-- A committed store of 0xA1B2C3D4 at 0x2000 whose access is in its last cycle; END is still to be fetched. -/
def sPerform : State :=
  let s := loaded small [(0#32, END)]
  { s with
    cur.lsq := s.cur.lsq.set 0 ⟨true, false, 0#5, false, 0#5, .sw, 0x2000#32, 0#32, 0xA1B2C3D4#32, 0#5⟩
    cur.lsqTail := 1
    cur.lsqInflight := true }
/-- `beq x0, x0, 8` at the head of the reorder buffer, taken, predicted as given. -/
def sBranch (predicted : Bool) : State :=
  let s := loaded small [(0#32, 0x00000463#32), (4#32, END), (8#32, END)]
  { s with
    cur.pc := if predicted then 8#32 else 4#32
    cur.rob := slotSet s.cur.rob 0#5 ⟨true, predicted, .branch, 8#32, 1#32, 0#32⟩
    cur.robTail := 1#5 }
/-- The mispredicted branch with a committed store in the queue behind it. -/
def sFlush : State :=
  let s := sBranch false
  { s with
    cur.lsq := s.cur.lsq.set 0 ⟨true, false, 0#5, false, 0#5, .sw, 0x2000#32, 0#32, 0xA1B2C3D4#32, 0#5⟩
    cur.lsqTail := 1 }
/-- A JALR waits for the addi of `addi x1, x0, 5; jalr x2, x1, 0`, whose result is not there yet. -/
def sJalr : State := after 2 (loaded small [(0#32, 0x00500093#32), (4#32, 0x00008167#32)])
/-- The same when it is. -/
def sJalrReady : State := after 1 sJalr
/-- A machine with a full reorder buffer. -/
def sFull : State := let s := loaded small [(0#32, END)]; { s with cur.robTail := 31#5 }
/-- A memory of six bytes, and the pc two bytes below its end. -/
def sRange : State := let s := loaded { small with memSize := 6 } []; { s with cur.pc := 4#32 }
/-- A memory of six bytes, and the pc at the last four of them. -/
def sEdge : State := let s := loaded { small with memSize := 6 } []; { s with cur.pc := 2#32 }
/-- A `MEM_SIZE` of 0x2002: the store of `sPerform` crosses it. -/
def sPerformRange : State := { sPerform with cfg := { small with memSize := 0x2002 } }
/-- Three additions in the reservation station, none of them issued, and two units of their class. -/
def sContend : State :=
  let e : RsEntry := ⟨false, false, false, .add, false, 0#5, 1#32, false, 0#5, 2#32, 0#5⟩
  let s := loaded { small with rsSize := 3 } []
  { s with cur.rs := [e, { e with rob := 1#5 }, { e with rob := 2#5 }]
           nxt.rs := [e, { e with rob := 1#5 }, { e with rob := 2#5 }] }

/-! #### Encoding and memory -/

theorem witness_DecodeOfEncode :
    (Instr.addi 31#5 31#5 0xFFF#12).decodable END = true ∧ (Instr.jal 31#5 0x1FFFFE#21).decodable END = true
      ∧ (Instr.bgeu 31#5 31#5 0x1FFE#13).decodable END = true ∧ (Instr.endProg).decodable END = true := by decide
theorem witness_EncodeOfDecode :
    decode END 0xFFC22183#32 = .ok (.lw 3#5 4#5 0xFFC#12) ∧ decode END END = .ok .endProg := by decide
theorem witness_DecodeFollowsTheTable :
    (0x00500093#32 ≠ END ∧ decode END 0x00500093#32 = .ok (.addi 1#5 0#5 5#12))
      ∧ (0x00000073#32 ≠ END ∧ decode END 0x00000073#32 = .error .majorOpcode
        ∧ ∀ r ∈ opcodeTable, r.spells 0x00000073#32 = false)
      ∧ ∃ r ∈ opcodeTable, r.spells 0x00500093#32 = true := by decide +kernel
theorem witness_WritesStoreTheirBytesOnly :
    Memory.wf [(0, 1#8), (0xFFFFFFFD, 2#8)]
      ∧ (∀ i < 4, 2#32 ≠ 0xFFFFFFFE#32 + BitVec.ofNat 32 i) ∧ (∀ i < 4, 0xFFFFFFFD#32 ≠ 0xFFFFFFFE#32 + BitVec.ofNat 32 i)
      ∧ (∀ i < 2, 0#32 ≠ 0xFFFFFFFE#32 + BitVec.ofNat 32 i) ∧ (∀ i < 1, 0xFFFFFFFF#32 ≠ 0xFFFFFFFE#32 + BitVec.ofNat 32 i) := by
  decide +kernel

/-! #### Dispatch -/

theorem witness_EndDispatch : sEnd.cur.robFull = false ∧ State.reset.cur.robFull = false := by decide +kernel
theorem witness_LuiAndJalDispatch : sReg2.cur.robFull = false := by decide +kernel
theorem witness_AuipcDispatch :
    (State.resetWith { small with auipcMode := .pcPlusImmNoWrite }).cur.robFull = false
      ∧ (State.resetWith { small with auipcMode := .pcPlus4NoWrite }).cfg.auipcMode = .pcPlus4NoWrite
      ∧ (State.resetWith { small with auipcMode := .pcPlus4NoWrite }).cur.robFull = false
      ∧ (State.resetWith { small with auipcMode := .rv32i }).cfg.auipcMode = .rv32i
      ∧ (State.resetWith { small with auipcMode := .rv32i }).cur.robFull = false
      ∧ State.reset.cfg.auipcMode = .pcPlusImmNoWrite := by decide +kernel
/-- The base ready in the reorder buffer, waiting, clean, and x0. -/
theorem witness_JalrDispatch :
    sReg.cur.robFull = false ∧ resolve sReg 1#5 = .value 0x1000#32 ∧ resolve sReg 31#5 = .value 0#32
      ∧ resolve sReg 0#5 = .value 0#32 ∧ sIssue.cur.robFull = false ∧ resolve sIssue 1#5 = .wait 0#5 := by
  decide +kernel
theorem firstFree_reset : FirstFree State.reset.cur 0 := ⟨by decide +kernel, by decide +kernel, by decide +kernel⟩
/-- The only free slot is the last one. -/
theorem firstFree_last :
    let b := { sContend.cur with rs := sContend.cur.rs.set 2 RsEntry.reset }
    FirstFree b 2 ∧ b.robFull = false := ⟨⟨by decide +kernel, by decide +kernel, by decide +kernel⟩, by decide +kernel⟩
theorem witness_ComputationalDispatch : State.reset.cur.robFull = false ∧ FirstFree State.reset.cur 0 :=
  ⟨by decide +kernel, firstFree_reset⟩
theorem witness_BranchDispatch : State.reset.cur.robFull = false ∧ FirstFree State.reset.cur 0 :=
  ⟨by decide +kernel, firstFree_reset⟩
theorem witness_LoadAndStoreDispatch :
    (State.resetWith small).cur.robFull = false ∧ (State.resetWith small).cur.lsqFull small = false := by decide +kernel
theorem witness_FullStructureStalls :
    (usesStation (.add 1#5 1#5 1#5) = true ∧ (∀ e ∈ sIssue.cur.rs, e.empty = false))
      ∧ usesQueue (.sw 1#5 1#5 0#12) = true ∧ sStore.cur.lsqFull sStore.cfg = true := by decide +kernel
theorem witness_DispatchFrame :
    (∃ t, exec (.sw 1#5 2#5 8#12) (State.resetWith small) = .next t)
      ∧ (∃ t, exec (.add 31#5 1#5 2#5) State.reset = .next t)
      ∧ destReg .rv32i (.auipc 1#5 0#20) ≠ some 2#5 ∧ destReg .pcPlusImmNoWrite (.auipc 1#5 0#20) ≠ some 1#5
      ∧ usesStation (.lw 1#5 2#5 0#12) = false ∧ usesQueue (.add 1#5 2#5 3#5) = false := by
  refine ⟨?_, ?_, by decide, by decide, by decide, by decide⟩
  · exact (next_of_nextWith (p := fun _ => true) (by decide +kernel)).imp fun _ h => h.1
  · exact (next_of_nextWith (p := fun _ => true) (by decide +kernel)).imp fun _ h => h.1
/-- No producer; a producer with its value; a producer without; the youngest of two. -/
theorem witness_ResolveReadsYoungestProducer :
    (Inv sReg ∧ (∀ t, ¬ sReg.cur.produces t 2#5) ∧ sReg.cur.produces 0#5 1#5
        ∧ (∀ t', sReg.cur.produces t' 1#5 → sReg.cur.robAge t' ≤ sReg.cur.robAge 0#5))
      ∧ (Inv sIssue ∧ sIssue.cur.produces 0#5 1#5 ∧ (slotGet sIssue.cur.rob 0#5).ready = false
        ∧ (∀ t', sIssue.cur.produces t' 1#5 → sIssue.cur.robAge t' ≤ sIssue.cur.robAge 0#5))
      ∧ Inv sReg2 ∧ sReg2.cur.produces 1#5 1#5
        ∧ (∀ t', sReg2.cur.produces t' 1#5 → sReg2.cur.robAge t' ≤ sReg2.cur.robAge 1#5) :=
  ⟨⟨inv_of_check (by decide +kernel), by decide +kernel, by decide +kernel, by decide +kernel⟩,
    ⟨inv_of_check (by decide +kernel), by decide +kernel, by decide +kernel, by decide +kernel⟩,
    inv_of_check (by decide +kernel), by decide +kernel, by decide +kernel⟩

/-! #### Fetch -/

theorem witness_FetchStepCases :
    sEnd.cur.fetchStopped = true
      ∧ (sJalr.cur.fetchStopped = false ∧ sJalr.cur.jalrWait.valid = true)
      ∧ (sFull.cur.fetchStopped = false ∧ sFull.cur.jalrWait.valid = false ∧ sFull.cur.robFull = true)
      ∧ (sBranch true).cur.fetchStopped = false ∧ (sBranch true).cur.jalrWait.valid = false
      ∧ (sBranch true).cur.robFull = false
      ∧ (∀ j < 4, ((sBranch true).cur.pc + BitVec.ofNat 32 j).toNat < (sBranch true).cfg.memSize)
      ∧ decode END (memRead4 (sBranch true).mem (sBranch true).cur.pc) = .ok .endProg
      ∧ (∀ j < 4, (sEdge.cur.pc + BitVec.ofNat 32 j).toNat < sEdge.cfg.memSize)
      ∧ sEdge.cur.fetchStopped = false ∧ sEdge.cur.jalrWait.valid = false ∧ sEdge.cur.robFull = false
      ∧ decode END (memRead4 sEdge.mem sEdge.cur.pc) = .error .majorOpcode := by decide +kernel
/-- A byte the store performed in this cycle writes, a byte beside it, and a store that still waits. -/
theorem witness_FetchSeesStoresOnlyWhenPerformed :
    let s := { sPerform with cur.pc := 0x2002#32 }
    let w := { s with cur.lsqInflight := false }
    Memory.wf s.mem ∧ nextWith (lsqStep (beginCycle s)) (fun _ => true) = true
      ∧ s.cur.performs = true ∧ (s.cur.lsqAt s.cur.lsqHead).type.isStore = true
      ∧ s.cur.pc + BitVec.ofNat 32 1 = 0x2000#32 + BitVec.ofNat 32 3
      ∧ (∀ j < 4, s.cur.pc + BitVec.ofNat 32 2 ≠ 0x2000#32 + BitVec.ofNat 32 j)
      ∧ nextWith (lsqStep (beginCycle w)) (fun _ => true) = true ∧ w.cur.performs = false
      ∧ w.cur.lsqOccupied w.cfg 0 = true := by decide +kernel
theorem witness_PendingJalrResolution :
    (sJalr.cur.fetchStopped = false ∧ sJalr.cur.jalrWait.valid = true
        ∧ (slotGet sJalr.cur.rob sJalr.cur.jalrWait.q).ready = false)
      ∧ sJalrReady.cur.fetchStopped = false ∧ sJalrReady.cur.jalrWait.valid = true
      ∧ (slotGet sJalrReady.cur.rob sJalrReady.cur.jalrWait.q).ready = true := by decide +kernel

/-! #### Reservation station and units -/

/-- The second contender gets unit 1, the third none. -/
theorem witness_IssueInScanOrder :
    sContend.nxt.rs.length = sContend.cur.rs.length ∧ sContend.cur.rs.length = 3 ∧ (sContend.cur.rsAt 1).issuable = true
      ∧ opClass (sContend.cur.rsAt 1).op = .add ∧ opClass (sContend.cur.rsAt 2).op = .add
      ∧ (sContend.cur.fu.freeUnits .add)[contendersBelow sContend.cur .add 1]? = some .u1
      ∧ (sContend.cur.rsAt 2).issuable = true
      ∧ (sContend.cur.fu.freeUnits .add)[contendersBelow sContend.cur .add 2]? = none := by decide +kernel
theorem witness_StationWakeup :
    (1 < sWait.nxt.rs.length ∧ sWait.nxt.rsAt 1 = sWait.cur.rsAt 1 ∧ (sWait.cur.rsAt 1).empty = false
        ∧ (sWait.cur.rsAt 1).harvested sWait.cur.fu = false ∧ (sWait.cur.rsAt 1).q1c = true
        ∧ (slotGet sWait.cur.rob (sWait.cur.rsAt 1).q1).ready = false)
      ∧ 1 < sWake.nxt.rs.length ∧ sWake.nxt.rsAt 1 = sWake.cur.rsAt 1 ∧ (sWake.cur.rsAt 1).empty = false
      ∧ (sWake.cur.rsAt 1).harvested sWake.cur.fu = false ∧ (sWake.cur.rsAt 1).q1c = true
      ∧ (slotGet sWake.cur.rob (sWake.cur.rsAt 1).q1).ready = true := by
  decide +kernel
theorem witness_UnitLatencyIsTwoTicks :
    Inv sIssue ∧ step sIssue = .next sUnit ∧ step sUnit = .next (after 1 sUnit)
      ∧ sUnit.status = .running ∧ (after 1 sUnit).status = .running
      ∧ 0 < sIssue.cur.rs.length ∧ (sIssue.cur.rsAt 0).issuable = true
      ∧ opClass (sIssue.cur.rsAt 0).op = .add ∧ (sIssue.cur.rsAt 0).rob = 0#5
      ∧ (sIssue.cur.fu.freeUnits .add)[contendersBelow sIssue.cur .add 0]? = some .u0
      ∧ sUnit.cur.robOccupied 0#5 = true ∧ (after 1 sUnit).cur.robOccupied 0#5 = true :=
  ⟨inv_of_check (by decide +kernel), step_after (by decide +kernel), step_after (by decide +kernel),
    by decide +kernel⟩

/-! #### Load/store queue -/

/-- An occupied slot whose base has become ready, and an unoccupied one. -/
theorem witness_QueueWakeup :
    let s := after 3 (loaded small [(0#32, 0x00500093#32), (4#32, 0x0000A103#32), (8#32, END)])
    0 < s.nxt.lsq.length ∧ s.nxt.lsqAt 0 = s.cur.lsqAt 0 ∧ s.cur.lsqOccupied s.cfg 0 = true
      ∧ (s.cur.lsqAt 0).basec = true ∧ (slotGet s.cur.rob (s.cur.lsqAt 0).baseq).ready = true
      ∧ 1 < s.nxt.lsq.length ∧ s.cur.lsqOccupied s.cfg 1 = false := by decide +kernel
theorem witness_StoresReportToTheRob :
    (∃ i < sStore.cfg.lsqSize, sStore.cur.lsqOccupied sStore.cfg i = true ∧ (sStore.cur.lsqAt i).type.isStore = true
        ∧ (sStore.cur.lsqAt i).basec = false ∧ (sStore.cur.lsqAt i).valuec = false
        ∧ (sStore.cur.lsqAt i).ready = false ∧ (sStore.cur.lsqAt i).rob = 0#5)
      ∧ ∀ i < sLoad.cfg.lsqSize, ¬ ((sLoad.cur.lsqAt i).type.isStore = true) := by decide +kernel
theorem witness_MemoryPipelineCases :
    (sLoad.cur.performs = true ∧ (sLoad.cur.lsqAt sLoad.cur.lsqHead).type.isLoad = true
        ∧ ∀ i < 4, ((0#32 : Word) + BitVec.ofNat 32 i).toNat < sLoad.cfg.memSize)
      ∧ (sPerform.cur.performs = true ∧ (sPerform.cur.lsqAt sPerform.cur.lsqHead).type.isStore = true
        ∧ Memory.wf sPerform.mem ∧ ∀ i < 4, ((0x2000#32 : Word) + BitVec.ofNat 32 i).toNat < sPerform.cfg.memSize)
      ∧ (sPerformRange.cur.performs = true ∧ sPerformRange.cfg.memSize ≤ ((0x2000#32 : Word) + 2#32).toNat
        ∧ ∀ j < 2, ((0x2000#32 : Word) + BitVec.ofNat 32 j).toNat < sPerformRange.cfg.memSize)
      ∧ (let s := { sPerform with cur.lsqCount := 2#2 }
        s.cur.lsqInflight = true ∧ s.cur.lsqCount ≠ 0#2)
      ∧ (let s := { sPerform with cur.lsqInflight := false }
        s.cur.lsqInflight = false ∧ s.cur.lsqEmpty = false ∧ (s.cur.lsqAt s.cur.lsqHead).ready = true)
      ∧ (sStore.cur.lsqInflight = false ∧ (sStore.cur.lsqAt sStore.cur.lsqHead).ready = false)
      ∧ sEnd.cur.lsqInflight = false ∧ sEnd.cur.lsqEmpty = true := by decide +kernel
theorem witness_MemoryChangesOnlyByCommittedStores :
    Inv sPerform ∧ step sPerform = .next (after 1 sPerform)
      ∧ readByte (after 1 sPerform).mem 0x2003#32 ≠ readByte sPerform.mem 0x2003#32
      ∧ sPerform.cur.performs = true ∧ (sPerform.cur.lsqAt sPerform.cur.lsqHead).type.isStore = true :=
  ⟨inv_of_check (by decide +kernel), step_after (by decide +kernel), by decide +kernel⟩

/-! #### Commit -/

/-- The register depends on the head; on a younger slot; on the head, with a rename staged in this cycle. -/
theorem witness_RegisterWriteCommit :
    (sReg.cur.commits = true ∧ sReg.cur.robHeadEntry.kind = .registerWrite ∧ (slotGet sReg.cur.reg 1#5).dep = sReg.cur.robHead
        ∧ sReg.nxt.robTail = sReg.cur.robTail)
      ∧ (sReg2.cur.commits = true ∧ sReg2.cur.robHeadEntry.kind = .registerWrite
        ∧ (slotGet sReg2.cur.reg 1#5).dep ≠ sReg2.cur.robHead)
      ∧ (let s := { sReg with
            nxt.robTail := 2#5
            nxt.rob := slotSet sReg.nxt.rob 1#5 ⟨true, false, .registerWrite, 1#32, 0x2000#32, 0#32⟩ }
        s.cur.commits = true ∧ s.cur.robHeadEntry.kind = .registerWrite ∧ s.nxt.robTail ≠ s.cur.robTail
          ∧ (slotGet s.nxt.rob s.cur.robTail).kind = .registerWrite ∧ (slotGet s.nxt.rob s.cur.robTail).dest = 1#32) := by
  decide +kernel
theorem witness_StoreCommit :
    (sStoreHead.cur.commits = true ∧ sStoreHead.cur.robHeadEntry.kind = .memoryWrite
        ∧ sStoreHead.cur.lsqOccupied sStoreHead.cfg 0 = true ∧ (sStoreHead.cur.lsqAt 0).type.isStore = true
        ∧ (sStoreHead.cur.lsqAt 0).ready = false ∧ sStoreHead.cur.robHeadEntry.dest = 0#32)
      ∧ (let s := { sStoreHead with cur.lsqTail := 0 }
        s.cur.commits = true ∧ s.cur.robHeadEntry.kind = .memoryWrite ∧ s.cur.lsqOccupied s.cfg 0 = false) := by
  decide +kernel
theorem witness_BranchCommit :
    ∀ p : Bool, (sBranch p).cur.commits = true ∧ (sBranch p).cur.robHeadEntry.kind = .branch
      ∧ ((sBranch p).cur.robHeadEntry.value != 0#32) = true ∧ (sBranch p).cur.robHeadEntry.predicted = p := by
  decide +kernel
/-- A committed store stays in the queue over the flush. -/
theorem witness_MispredictionFlush :
    Inv sFlush ∧ step sFlush = .next (after 1 sFlush) ∧ sFlush.cur.commits = true
      ∧ sFlush.cur.robHeadEntry.kind = .branch
      ∧ (sFlush.cur.robHeadEntry.value != 0#32) ≠ sFlush.cur.robHeadEntry.predicted
      ∧ (after 1 sFlush).cur.lsqOccupied sFlush.cfg 0 = true :=
  ⟨inv_of_check (by decide +kernel), step_after (by decide +kernel), by decide +kernel⟩
theorem witness_HeadAdvancesByOnePerCommit :
    (step sReg = .next (after 1 sReg) ∧ (after 1 sReg).status = .running ∧ sReg.cur.commits = true)
      ∧ step sIssue = .next (after 1 sIssue) ∧ (after 1 sIssue).status = .running ∧ sIssue.cur.commits = false :=
  ⟨⟨step_after (by decide +kernel), by decide +kernel⟩, step_after (by decide +kernel), by decide +kernel⟩
theorem witness_RegistersChangeOnlyByCommit :
    step sReg = .next (after 1 sReg) ∧ sReg.cur.commits = true ∧ sReg.cur.robHeadEntry.kind = .registerWrite
      ∧ (sReg.cur.robHeadEntry.dest.setWidth 5 : Reg) = 1#5 :=
  ⟨step_after (by decide +kernel), by decide +kernel⟩
theorem witness_EndCommitHalts :
    sEnd.status = .running ∧ sEnd.cur.commits = true ∧ sEnd.cur.robHeadEntry.kind = .endProg
      ∧ ∃ s1 s2, lsqStep (beginCycle sEnd) = .next s1 ∧ fetchStep s1 = .next s2 := by
  refine ⟨by decide +kernel, by decide +kernel, by decide +kernel, ?_⟩
  obtain ⟨s1, h1, h2⟩ := next_of_nextWith
    (r := lsqStep (beginCycle sEnd)) (p := fun s1 => nextWith (fetchStep s1) fun _ => true) (by decide +kernel)
  obtain ⟨s2, h3, -⟩ := next_of_nextWith h2
  exact ⟨s1, s2, h1, h3⟩
theorem witness_HaltFindsTheMachineDrained :
    Inv sEnd ∧ sEnd.cur.commits = true ∧ sEnd.cur.robHeadEntry.kind = .endProg :=
  ⟨inv_of_check (by decide +kernel), by decide +kernel⟩

/-- The reason an answer stops with. -/
def faultOf (r : Result) : Option Fault :=
  match r with
  | .fault f => some f
  | .next _ | .refused _ => none

theorem fault_of_faultOf {r : Result} {f : Fault} (h : faultOf r = some f) : r = .fault f := by
  cases r <;> simp_all [faultOf]

/-- Both halts of a run, both sources of Fatal, and a fetch that crosses `MEM_SIZE` after two bytes. -/
theorem witness_HowARunEnds :
    (step sEnd = .next (after 1 sEnd) ∧ (after 1 sEnd).status = .halted 0#8)
      ∧ (State.reset.afterFatal (.decodeError 0#32)).status = .fatal (.decodeError 0#32)
      ∧ lsqStep (beginCycle sPerformRange) = .fault (.fatal (.memRange 0x2002))
      ∧ (∃ s1, lsqStep (beginCycle State.reset) = .next s1 ∧ fetchStep s1 = .fault (.fatal (.decodeError 0#32)))
      ∧ sRange.cur.fetchStopped = false ∧ sRange.cur.jalrWait.valid = false ∧ sRange.cur.robFull = false
      ∧ sRange.cfg.memSize ≤ (sRange.cur.pc + BitVec.ofNat 32 2).toNat
      ∧ (∀ j < 2, (sRange.cur.pc + BitVec.ofNat 32 j).toNat < sRange.cfg.memSize)
      ∧ ∃ s1, lsqStep (beginCycle sRange) = .next s1 := by
  refine ⟨⟨step_after (by decide +kernel), by decide +kernel⟩, by decide +kernel, fault_of_faultOf (by decide +kernel),
    ?_, by decide +kernel, by decide +kernel, by decide +kernel, by decide +kernel, by decide +kernel, ?_⟩
  · obtain ⟨s1, h1, h2⟩ := next_of_nextWith (r := lsqStep (beginCycle State.reset))
      (p := fun s1 => faultOf (fetchStep s1) == some (.fatal (.decodeError 0#32))) (by decide +kernel)
    exact ⟨s1, h1, fault_of_faultOf (by simpa using h2)⟩
  · exact (next_of_nextWith (p := fun _ => true) (by decide +kernel)).imp fun _ h => h.1

/-! #### Predictor -/

theorem witness_PredictorUpdate :
    Predictor.Wf State.reset.cur.pred ∧ State.reset.nxt.pred = State.reset.cur.pred
      ∧ predict State.reset 0xFFFFFFFF#32 = false
      ∧ (let s := { State.reset with
            cur.pred := [(4095, ⟨0#4, Vector.replicate 16 true⟩)], nxt.pred := [(4095, ⟨0#4, Vector.replicate 16 true⟩)] }
        Predictor.Wf s.cur.pred ∧ s.nxt.pred = s.cur.pred ∧ predict s 0xFFFFFFFF#32 = true) := by decide +kernel
theorem witness_AccuracyIsPartial :
    State.reset.cur.predCorrect + State.reset.cur.predIncorrect = 0
      ∧ (let s := { State.reset with cur.predIncorrect := 1 }
        s.cur.predCorrect + s.cur.predIncorrect > 0) := by decide +kernel

/-! #### The cycle -/

theorem witness_CycleOrderAndPublish :
    sIssue.status = .running ∧ ∃ s1 s2 s3, lsqStep { sIssue with nxt := sIssue.cur } = .next s1
      ∧ fetchStep s1 = .next s2 ∧ commitStep (rsStep s2) = .next s3 ∧ s3.status = .running := by
  refine ⟨by decide +kernel, ?_⟩
  obtain ⟨s1, h1, h2⟩ := next_of_nextWith (r := lsqStep { sIssue with nxt := sIssue.cur })
    (p := fun s1 => nextWith (fetchStep s1) fun s2 =>
      nextWith (commitStep (rsStep s2)) fun s3 => decide (s3.status = .running)) (by decide +kernel)
  obtain ⟨s2, h3, h4⟩ := next_of_nextWith h2
  obtain ⟨s3, h5, h6⟩ := next_of_nextWith h4
  exact ⟨s1, s2, s3, h1, h3, h5, of_decide_eq_true h6⟩
/-- With a store performed in the same cycle, and with nothing in flight. -/
theorem witness_StepRunsTheDecodedInstruction :
    (∀ s ∈ [sPerform, sIssue], s.status = .running ∧ s.cur.fetchStopped = false ∧ s.cur.jalrWait.valid = false
        ∧ s.cur.robFull = false ∧ ∀ j < 4, (s.cur.pc + BitVec.ofNat 32 j).toNat < s.cfg.memSize)
      ∧ (∃ s1, lsqStep (beginCycle sPerform) = .next s1
        ∧ decode sPerform.cfg.endWord (memRead4 s1.mem sPerform.cur.pc) = .ok .endProg)
      ∧ (∃ s1, lsqStep (beginCycle sIssue) = .next s1
        ∧ decode sIssue.cfg.endWord (memRead4 s1.mem sIssue.cur.pc) = .ok .endProg) ∧ sIssue.cur.performs = false := by
  refine ⟨by decide +kernel, ?_, ?_, by decide +kernel⟩
  · obtain ⟨s1, h1, h2⟩ := next_of_nextWith (r := lsqStep (beginCycle sPerform))
      (p := fun s1 => decide (decode sPerform.cfg.endWord (memRead4 s1.mem sPerform.cur.pc) = .ok .endProg))
      (by decide +kernel)
    exact ⟨s1, h1, of_decide_eq_true h2⟩
  · obtain ⟨s1, h1, h2⟩ := next_of_nextWith (r := lsqStep (beginCycle sIssue))
      (p := fun s1 => decide (decode sIssue.cfg.endWord (memRead4 s1.mem sIssue.cur.pc) = .ok .endProg))
      (by decide +kernel)
    exact ⟨s1, h1, of_decide_eq_true h2⟩
theorem witness_ClockCountsPublishedCycles :
    (step sIssue = .next (after 1 sIssue) ∧ (after 1 sIssue).status = .running)
      ∧ step sEnd = .next (after 1 sEnd) ∧ (after 1 sEnd).status ≠ .running :=
  ⟨⟨step_after (by decide +kernel), by decide +kernel⟩, step_after (by decide +kernel), by decide +kernel⟩

/-! #### Invariants -/

theorem witness_ResetEstablishesInv : small.Valid ∧ Config.default.Valid ∧ Memory.wf sPerform.mem := by
  decide +kernel
theorem witness_StepKeepsCanonicalForms :
    Memory.wf (sBranch true).mem ∧ Predictor.Wf (sBranch true).cur.pred
      ∧ step (sBranch true) = .next (after 1 (sBranch true)) ∧ (after 1 (sBranch true)).cur.pred ≠ [] :=
  ⟨by decide +kernel, by decide +kernel, step_after (by decide +kernel), by decide +kernel⟩
theorem witness_StepKeepsTheAliasTable :
    ZeroOk sReg2.cur ∧ RatOk sReg2.cur ∧ step sReg2 = .next (after 1 sReg2) :=
  ⟨by decide +kernel, (inv_of_check (s := sReg2) (by decide +kernel)).rat, step_after (by decide +kernel)⟩
theorem witness_StepKeepsInv : Inv sFlush ∧ step sFlush = .next (after 1 sFlush) :=
  ⟨inv_of_check (by decide +kernel), step_after (by decide +kernel)⟩
/-- A next state, a word that does not decode, an address beyond a reduced memory. -/
theorem witness_StepOutcomes :
    (Inv sIssue ∧ sIssue.status = .running ∧ goes sIssue = true)
      ∧ (Inv (State.resetWith small) ∧ faultOf (step (State.resetWith small)) = some (.fatal (.decodeError 0#32)))
      ∧ Inv sPerformRange ∧ sPerformRange.status = .running
      ∧ faultOf (step sPerformRange) = some (.fatal (.memRange 0x2002)) :=
  ⟨⟨inv_of_check (by decide +kernel), by decide +kernel, by decide +kernel⟩,
    ⟨inv_of_check (by decide +kernel), by decide +kernel⟩,
    inv_of_check (by decide +kernel), by decide +kernel, by decide +kernel⟩
/-- A unit's result, a load's, and a store's report; the entry stays in each case. -/
theorem witness_HowAnEntryBecomesReady :
    (Inv sUnit ∧ step sUnit = .next (after 1 sUnit)) ∧ (Inv sLoad ∧ step sLoad = .next (after 1 sLoad))
      ∧ (Inv sStore ∧ step sStore = .next (after 1 sStore))
      ∧ ∀ s ∈ [sUnit, sLoad, sStore], (after 1 s).status = .running ∧ s.cur.robOccupied 0#5 = true
        ∧ (after 1 s).cur.robOccupied 0#5 = true ∧ (slotGet s.cur.rob 0#5).ready = false
        ∧ (slotGet (after 1 s).cur.rob 0#5).ready = true :=
  ⟨⟨inv_of_check (by decide +kernel), step_after (by decide +kernel)⟩,
    ⟨inv_of_check (by decide +kernel), step_after (by decide +kernel)⟩,
    ⟨inv_of_check (by decide +kernel), step_after (by decide +kernel)⟩, by decide +kernel⟩

/-! #### Runs -/

/-- `SoloProgram`, evaluated. -/
def soloCheck (s : State) (i : Instr) : Bool :=
  let next := (archEffect s.cfg.auipcMode i s.arch).pc
  invCheck s && (quiescentCheck s && (decide (2 ^ 32 ≤ s.cfg.memSize ∧ i.decodable s.cfg.endWord = true
    ∧ fetchWord s = encode s.cfg.endWord i ∧ memRead4 s.mem next = s.cfg.endWord)
    && (storedBytes i s.arch).all fun x => (List.range 4).all fun j => x != next + BitVec.ofNat 32 j))

theorem solo_of_check {s : State} {i : Instr} (h : soloCheck s i = true) : SoloProgram s i := by
  simp only [soloCheck, Bool.and_eq_true, decide_eq_true_iff, List.all_eq_true, List.mem_range,
    bne_iff_ne] at h
  obtain ⟨inv, quiet, ⟨memory, decodable, atPc, endNext⟩, notStored⟩ := h
  exact ⟨inv_of_check inv, quiescent_of_check quiet, memory, decodable, atPc, endNext, notStored⟩

/-- The word of `i` at 0, END at 4 and at 8. -/
def solo (c : Config) (i : Instr) : State := loaded c [(0#32, encode END i), (4#32, END), (8#32, END)]

theorem witness_FetchUnitInstructionsRun :
    SoloProgram (solo small .endProg) .endProg ∧ SoloProgram (solo small (.lui 1#5 0xFFFFF#20)) (.lui 1#5 0xFFFFF#20)
      ∧ SoloProgram (solo { small with auipcMode := .rv32i } (.auipc 1#5 1#20)) (.auipc 1#5 1#20)
      ∧ SoloProgram (solo { small with auipcMode := .pcPlus4NoWrite } (.auipc 1#5 1#20)) (.auipc 1#5 1#20)
      ∧ SoloProgram (loaded small [(0#32, 0x00001097#32), (0x1000#32, END)]) (.auipc 1#5 1#20)
      ∧ SoloProgram (solo small (.jal 0#5 8#21)) (.jal 0#5 8#21)
      ∧ SoloProgram (solo small (.jalr 1#5 1#5 8#12)) (.jalr 1#5 1#5 8#12) :=
  ⟨solo_of_check (by decide +kernel), solo_of_check (by decide +kernel), solo_of_check (by decide +kernel),
    solo_of_check (by decide +kernel), solo_of_check (by decide +kernel), solo_of_check (by decide +kernel),
    solo_of_check (by decide +kernel)⟩
theorem witness_ComputationalInstructionsRun :
    SoloProgram (solo small (.addi 0#5 31#5 0x800#12)) (.addi 0#5 31#5 0x800#12)
      ∧ SoloProgram (solo small (.sra 1#5 1#5 1#5)) (.sra 1#5 1#5 1#5) :=
  ⟨solo_of_check (by decide +kernel), solo_of_check (by decide +kernel)⟩
/-- Predicted right (not taken), and predicted wrong (taken). -/
theorem witness_BranchesRun :
    (SoloProgram (solo small (.bne 1#5 2#5 8#13)) (.bne 1#5 2#5 8#13)
        ∧ memRead4 (solo small (.bne 1#5 2#5 8#13)).mem 4#32 = END
        ∧ memRead4 (solo small (.bne 1#5 2#5 8#13)).mem 8#32 = END)
      ∧ SoloProgram (solo small (.beq 1#5 2#5 8#13)) (.beq 1#5 2#5 8#13)
      ∧ memRead4 (solo small (.beq 1#5 2#5 8#13)).mem 4#32 = END
      ∧ memRead4 (solo small (.beq 1#5 2#5 8#13)).mem 8#32 = END :=
  ⟨⟨solo_of_check (by decide +kernel), by decide +kernel⟩, solo_of_check (by decide +kernel), by decide +kernel⟩
theorem witness_LoadsRun :
    SoloProgram (solo small (.lh 1#5 2#5 0xFFF#12)) (.lh 1#5 2#5 0xFFF#12)
      ∧ SoloProgram (solo small (.lw 0#5 0#5 0x7FF#12)) (.lw 0#5 0#5 0x7FF#12) :=
  ⟨solo_of_check (by decide +kernel), solo_of_check (by decide +kernel)⟩
theorem witness_StoresRun :
    SoloProgram (solo small (.sw 0#5 10#5 0xFFF#12)) (.sw 0#5 10#5 0xFFF#12)
      ∧ (3#32 : Word) ∉ storedBytes (.sw 0#5 10#5 0xFFF#12) (solo small (.sw 0#5 10#5 0xFFF#12)).arch :=
  ⟨solo_of_check (by decide +kernel), by decide +kernel⟩

/-- The machine reaches a halt in `n` steps. -/
def haltsIn : Nat → State → Bool
  | 0, s =>
    match s.status with
    | .halted _ => true
    | .running | .fatal _ => false
  | n + 1, s => nextWith (step s) (haltsIn n)

theorem never_fatal_of_haltsIn (n : Nat) :
    ∀ (s : State), haltsIn n s = true → ∀ m reason, Sys2Proof.core.run m s ≠ .fault (.fatal reason) := by
  induction n with
  | zero =>
    intro s h m reason
    cases m with
    | zero => simp [Host.Core.run]
    | succ m =>
      unfold haltsIn at h
      cases hs : s.status <;> simp [hs] at h
      simp [Host.Core.run, Sys2Proof.core, step, cycle, hs]
  | succ n ih =>
    intro s h m reason
    cases m with
    | zero => simp [Host.Core.run]
    | succ m =>
      obtain ⟨t, ht, hn⟩ := next_of_nextWith (r := step s) (p := haltsIn n) h
      have := ih t hn m reason
      simpa [Host.Core.run, Sys2Proof.core, ht] using this

/-- `addi x10, x0, 7; END`, byte by byte. -/
def sevenImage : List (Word × Byte) :=
  [(0#32, 0x13#8), (1#32, 0x05#8), (2#32, 0x70#8), (4#32, 0x13#8), (5#32, 0x05#8), (6#32, 0xF0#8), (7#32, 0x0F#8)]

def sevenStart : State := (State.resetWith small).loadImage sevenImage
def sevenLast : Arch := archEffect .pcPlusImmNoWrite (.addi 10#5 0#5 7#12) sevenStart.arch

theorem seven_first : seqStep small sevenStart.arch = .next sevenLast := by decide +kernel
theorem seven_stop : seqStep small sevenLast = .stop 7#8 := by decide +kernel

theorem witness_SequentialEquivalence :
    small.Valid ∧ seqRun small 1 sevenStart.arch = .next sevenLast ∧ seqStep small sevenLast = .stop 7#8
      ∧ NeverFetchesStored small sevenStart.arch
      ∧ ∀ m reason, Sys2Proof.core.run m sevenStart ≠ .fault (.fatal reason) := by
  refine ⟨by decide, by simp [seqRun, seven_first], seven_stop, ?_, never_fatal_of_haltsIn 5 _ (by decide +kernel)⟩
  intro i j a b hij ha hb x hx
  match i, j, hij with
  | 0, _, _ =>
    have hs : stepStores small sevenStart.arch = [] := by decide +kernel
    simp only [seqRun, SeqOutcome.next.injEq] at ha
    simp [← ha, hs] at hx
  | i + 1, j + 2, _ => simp [seqRun, seven_first, seven_stop] at hb

end Sys2Proof.Tests
end

section
/-! PROOFS of the family 00_scope.md: what the dispatch of an instruction leaves unchanged (O20). `FetchFrame` holds
what no dispatch changes; `StageFrame` here adds what only the instructions it names change. -/

namespace Sys2Proof.Machine

/-! ### What `rob_add` leaves alone of the register file and the buffer -/

/-- Another register keeps its entry across a rename (R343). -/
theorem renamedRegs_ne (t : Slot) (r : Vector RegEntry 32) {i j : Reg} (h : j ≠ i) :
    slotGet (renamedRegs i t r) j = slotGet r j := by
  unfold renamedRegs
  split
  · rfl
  · exact slotGet_slotSet_ne _ _ h

/-- Register 0 is never renamed (R345). -/
theorem renamedRegs_zero (i : Reg) (t : Slot) (r : Vector RegEntry 32) :
    slotGet (renamedRegs i t r) 0#5 = slotGet r 0#5 := by
  by_cases h : i = 0#5
  · simp [renamedRegs, h]
  · exact renamedRegs_ne t r (Ne.symm h)

/-- Only the destination of a RegisterWrite entry may be renamed (R176). -/
theorem robAdded_reg_ne {e : RobEntry} {s : State} {r : Reg}
    (h : e.kind = .registerWrite → r ≠ e.dest.setWidth 5) :
    slotGet (robAdded e s).nxt.reg r = slotGet s.nxt.reg r := by
  unfold robAdded
  split
  · next hk => exact renamedRegs_ne _ _ (h hk)
  · rfl

theorem robAdded_reg_zero (e : RobEntry) (s : State) :
    slotGet (robAdded e s).nxt.reg 0#5 = slotGet s.nxt.reg 0#5 := by
  unfold robAdded
  split
  · exact renamedRegs_zero ..
  · rfl

/-! ### The frame of one instruction -/

/-- What the dispatch of `i` leaves alone beside `FetchFrame`: every register entry but its destination's, every RoB
slot but the tail's, and the fields staged only by other classes of instruction (R133, R160 to R173). -/
structure StageFrame (i : Instr) (s t : State) : Prop where
  otherRegs : ∀ r, destReg s.cfg.auipcMode i ≠ some r → slotGet t.nxt.reg r = slotGet s.nxt.reg r
  regZero : slotGet t.nxt.reg 0#5 = slotGet s.nxt.reg 0#5
  otherSlots : ∀ k, k ≠ s.cur.robTail → slotGet t.nxt.rob k = slotGet s.nxt.rob k
  station : usesStation i = false → t.nxt.rs = s.nxt.rs
  queue : usesQueue i = false → t.nxt.lsq = s.nxt.lsq ∧ t.nxt.lsqTail = s.nxt.lsqTail
  stop : i ≠ .endProg → t.nxt.fetchStopped = s.nxt.fetchStopped
  wait : (∀ rd rs1 imm, i ≠ .jalr rd rs1 imm) → t.nxt.jalrWait = s.nxt.jalrWait

theorem StageFrame.refl (i : Instr) (s : State) : StageFrame i s s := by constructor <;> simp

/-- `rob_add` keeps the frame of any instruction whose destination is the register the entry renames. -/
theorem robAdd_stageFrame {i : Instr} {e : RobEntry} {s t : State} (h : robAdd e s = .next t)
    (hd : e.kind = .registerWrite → destReg s.cfg.auipcMode i = some (e.dest.setWidth 5)) : StageFrame i s t := by
  obtain ⟨-, rfl⟩ := robAdd_eq_next h
  exact {
    otherRegs := fun r hr => robAdded_reg_ne fun hk he => hr (he ▸ hd hk)
    regZero := robAdded_reg_zero e s
    otherSlots := fun _ hk => slotGet_slotSet_ne _ _ hk
    station := fun _ => rfl
    queue := fun _ => ⟨rfl, rfl⟩
    stop := fun _ => rfl
    wait := fun _ => rfl }

/-- The case of `robAdd_stageFrame` for an instruction with destination `rd`. -/
theorem robAdd_regWrite_stageFrame {i : Instr} {rd : Reg} {b : Bool} {v : Word} {s t : State}
    (h : robAdd (regWriteEntry rd b v) s = .next t) (hd : destReg s.cfg.auipcMode i = some rd) :
    StageFrame i s t :=
  robAdd_stageFrame h fun _ => by simpa [regWriteEntry] using hd

/-! ### The classes of dispatch -/

theorem dispatchReady_stageFrame {i : Instr} {rd : Reg} {v a : Word} {s t : State}
    (h : dispatchReady rd v a s = .next t) (hd : destReg s.cfg.auipcMode i = some rd) : StageFrame i s t := by
  obtain ⟨u, hu, ht⟩ := bindNext_eq_next h
  cases ht
  exact { robAdd_regWrite_stageFrame hu hd with }

theorem dispatchComputational_stageFrame {i : Instr} {op : RsOp} {rd : Reg} {o1 o2 : Operand} {s t : State}
    (h : dispatchComputational op rd o1 o2 s = .next t) (hd : destReg s.cfg.auipcMode i = some rd)
    (hs : usesStation i = true) : StageFrame i s t := by
  unfold dispatchComputational at h
  split at h
  · cases h; exact .refl i s
  · obtain ⟨u, hu, ht⟩ := bindNext_eq_next h
    cases ht
    exact { robAdd_regWrite_stageFrame hu hd with station := by simp [hs] }

theorem dispatchBranch_stageFrame {i : Instr} {op : RsOp} {r1 r2 : Reg} {off : Word} {s t : State}
    (h : dispatchBranch op r1 r2 off s = .next t) (hs : usesStation i = true) : StageFrame i s t := by
  unfold dispatchBranch at h
  split at h
  · cases h; exact .refl i s
  · obtain ⟨u, hu, ht⟩ := bindNext_eq_next h
    cases ht
    exact { robAdd_stageFrame hu nofun with station := by simp [hs] }

theorem dispatchLoad_stageFrame {i : Instr} {ty : LsqType} {rd r1 : Reg} {off : Word} {s t : State}
    (h : dispatchLoad ty rd r1 off s = .next t) (hd : destReg s.cfg.auipcMode i = some rd)
    (hq : usesQueue i = true) : StageFrame i s t := by
  unfold dispatchLoad at h
  split at h
  · cases h; exact .refl i s
  · obtain ⟨u, hu, ht⟩ := bindNext_eq_next h
    cases ht
    exact { robAdd_regWrite_stageFrame hu hd with queue := by simp [hq] }

theorem dispatchStore_stageFrame {i : Instr} {ty : LsqType} {r1 r2 : Reg} {off : Word} {s t : State}
    (h : dispatchStore ty r1 r2 off s = .next t) (hq : usesQueue i = true) : StageFrame i s t := by
  unfold dispatchStore at h
  split at h
  · cases h; exact .refl i s
  · obtain ⟨u, hu, ht⟩ := bindNext_eq_next h
    cases ht
    exact { robAdd_stageFrame hu nofun with queue := by simp [hq] }

/-! ### Every instruction -/

theorem execEnd_stageFrame {s t : State} (h : execEnd s = .next t) : StageFrame .endProg s t := by
  obtain ⟨u, hu, ht⟩ := bindNext_eq_next h
  cases ht
  exact { robAdd_stageFrame (i := .endProg) hu nofun with stop := fun hne => absurd rfl hne }

/-- AUIPC has a destination only in the mode `rv32i`; in the other two it stages the pc alone (R166). -/
theorem execAuipc_stageFrame {rd : Reg} {imm : BitVec 20} {s t : State} (h : execAuipc rd imm s = .next t) :
    StageFrame (.auipc rd imm) s t := by
  unfold execAuipc at h
  split at h
  · cases h; exact { StageFrame.refl _ s with }
  · cases h; exact { StageFrame.refl _ s with }
  · next hm => exact dispatchReady_stageFrame h (by simp [destReg, hm])

theorem execJalr_stageFrame {rd rs1 : Reg} {imm : BitVec 12} {s t : State} (h : execJalr rd rs1 imm s = .next t) :
    StageFrame (.jalr rd rs1 imm) s t := by
  obtain ⟨u, hu, ht⟩ := bindNext_eq_next h
  have f : StageFrame (.jalr rd rs1 imm) s u := robAdd_regWrite_stageFrame hu rfl
  split at ht <;> cases ht
  · exact { f with }
  · exact { f with wait := fun hne => absurd rfl (hne rd rs1 imm) }

/-- Every instruction's meaning keeps its own `StageFrame`. -/
theorem exec_stageFrame {i : Instr} {s t : State} (h : exec i s = .next t) : StageFrame i s t := by
  cases i with
  | endProg => exact execEnd_stageFrame h
  | auipc rd imm => exact execAuipc_stageFrame h
  | jalr rd rs1 imm => exact execJalr_stageFrame h
  | lui | jal => exact dispatchReady_stageFrame h rfl
  | beq | bne | blt | bge | bltu | bgeu => exact dispatchBranch_stageFrame h rfl
  | lb | lh | lw | lbu | lhu => exact dispatchLoad_stageFrame h rfl rfl
  | sb | sh | sw => exact dispatchStore_stageFrame h rfl
  | addi | slti | sltiu | xori | ori | andi | slli | srli | srai => exact dispatchComputational_stageFrame h rfl rfl
  | add | sub | sll | slt | sltu | xor | srl | sra | or | and => exact dispatchComputational_stageFrame h rfl rfl

/-- Settles O20: `exec_frame` is what no dispatch changes, `exec_stageFrame` what only the named instructions change. -/
theorem dispatchFrame : Obligations.DispatchFrame := by
  intro i s t h
  have f := exec_frame h
  have g := exec_stageFrame h
  exact ⟨f.cfg, f.cur, f.status, fun a => by rw [f.mem], f.values, g.otherRegs, g.regZero, g.otherSlots, g.station,
    g.queue, g.stop, g.wait, f.robHead, f.fu, f.lsqHead, f.lsqInflight, f.lsqCount, f.pred, f.predCorrect,
    f.predIncorrect, f.clock⟩

end Sys2Proof.Machine
end

section
/-! PROOFS of the family 10_state.md: every step keeps the invariant of R46 (O50), a reset establishes it (O47), and how
a run ends (O40). One cycle is described slot by slot, once (`Advance`, from `RatOk` alone; `step_advance`); each part
of the invariant is then read off that description (`Advance.ratOk`, `Advance.stationOk`, `Advance.unitsOk`,
`Advance.queueOk`, `Advance.ownersOk`, `Advance.fetchOk`), and a misprediction flush keeps what it leaves
(`Flushed.bankInv`). -/

namespace Sys2Proof.Machine

/-! ### Results in the reorder buffer -/

/-- `r'` is `r` with a result in every slot of `p`: those become ready, no kind and no destination changes (R196, R277,
R280). -/
structure Finishing (p : Slot → Prop) (r r' : Vector RobEntry 32) : Prop where
  kind : ∀ i, (slotGet r' i).kind = (slotGet r i).kind
  dest : ∀ i, (slotGet r' i).dest = (slotGet r i).dest
  ready : ∀ i, (slotGet r' i).ready = true ↔ (slotGet r i).ready = true ∨ p i

theorem Finishing.refl {p : Slot → Prop} (h : ∀ i, ¬p i) (r : Vector RobEntry 32) : Finishing p r r :=
  ⟨fun _ => rfl, fun _ => rfl, fun i => by simp [h i]⟩

theorem Finishing.trans {p q : Slot → Prop} {r r' r'' : Vector RobEntry 32} (h : Finishing p r r')
    (h' : Finishing q r' r'') : Finishing (fun i => p i ∨ q i) r r'' :=
  ⟨fun i => (h'.kind i).trans (h.kind i), fun i => (h'.dest i).trans (h.dest i),
    fun i => by rw [h'.ready, h.ready, or_assoc]⟩

theorem Finishing.of_iff {p q : Slot → Prop} {r r' : Vector RobEntry 32} (h : Finishing p r r')
    (hpq : ∀ i, q i ↔ p i) : Finishing q r r' :=
  ⟨h.kind, h.dest, fun i => by rw [h.ready, hpq]⟩

theorem finishing_slotSet {r : Vector RobEntry 32} {t : Slot} {e : RobEntry} (hk : e.kind = (slotGet r t).kind)
    (hd : e.dest = (slotGet r t).dest) (hr : e.ready = true) : Finishing (fun i => t = i) r (slotSet r t e) := by
  constructor <;> intro i <;> rcases eq_or_ne t i with rfl | h
  · simpa using hk
  · rw [slotGet_slotSet_ne _ _ h.symm]
  · simpa using hd
  · rw [slotGet_slotSet_ne _ _ h.symm]
  · simpa using hr
  · simp [slotGet_slotSet_ne _ _ h.symm, h]

theorem finishing_robResult (r : Vector RobEntry 32) (t : Slot) (v : Word) :
    Finishing (fun i => t = i) r (robResult r t v) := finishing_slotSet rfl rfl rfl

theorem finishing_robMarkReady (r : Vector RobEntry 32) (t : Slot) :
    Finishing (fun i => t = i) r (robMarkReady r t) := finishing_slotSet rfl rfl rfl

theorem Finishing.ite {p : Slot → Prop} {r r' : Vector RobEntry 32} (b : Bool) (h : Finishing p r r') :
    Finishing (fun i => b = true ∧ p i) r (if b = true then r' else r) := by
  cases b
  · exact .refl (by simp) r
  · simpa using h

/-- A fold of such updates finishes the slots of its elements. -/
theorem Finishing.foldl {α : Type} {q : α → Slot → Prop} {f : Vector RobEntry 32 → α → Vector RobEntry 32}
    (h : ∀ r a, Finishing (q a) r (f r a)) (l : List α) (r : Vector RobEntry 32) :
    Finishing (fun i => ∃ a ∈ l, q a i) r (l.foldl f r) := by
  induction l generalizing r with
  | nil => exact .refl (by simp) r
  | cons a l ih => simpa using (h r a).trans (ih (f r a))

/-- A finished unit holds the result of slot `i` (R196). -/
def Bank.unitFinishes (b : Bank) (i : Slot) : Prop := ∃ f ∈ b.fu.units, f.finished = true ∧ f.index = i

/-- A store reports slot `i` (R277). -/
def Bank.storeFinishes (c : Config) (b : Bank) (i : Slot) : Prop :=
  ∃ j < c.lsqSize, (b.lsqOccupied c j && (b.lsqAt j).reports) = true ∧ (b.lsqAt j).rob = i

/-- The load whose access is performed delivers to slot `i` (R280). -/
def Bank.loadFinishes (b : Bank) (i : Slot) : Prop :=
  b.performs = true ∧ (b.lsqAt b.lsqHead).type.isLoad = true ∧ (b.lsqAt b.lsqHead).rob = i

theorem finishing_harvestRob (b : Bank) (r : Vector RobEntry 32) :
    Finishing b.unitFinishes r (harvestRob b.fu r) :=
  .foldl (fun r f => .ite f.finished (finishing_robResult r f.index f.result)) _ r

theorem finishing_reportStores (c : Config) (b : Bank) (r : Vector RobEntry 32) :
    Finishing (b.storeFinishes c) r (reportStores c b r) :=
  (Finishing.foldl
    (fun r j => .ite (b.lsqOccupied c j && (b.lsqAt j).reports) (finishing_robMarkReady r (b.lsqAt j).rob))
    (List.range c.lsqSize) r).of_iff fun i => by simp [Bank.storeFinishes]

theorem finishing_performAccess (e : LsqEntry) (s : State) :
    Finishing (fun i => e.type.isLoad = true ∧ e.rob = i) s.nxt.rob (performAccess e s).nxt.rob := by
  cases h : e.type with
  | lb | lh | lw | lbu | lhu => simpa [performAccess, h, LsqType.isLoad] using finishing_robResult s.nxt.rob e.rob _
  | sb | sh | sw => simpa [performAccess, h, LsqType.isLoad] using Finishing.refl (fun _ hf => hf) s.nxt.rob

/-! ### The LSQ step -/

/-- Slot `i` of the queue after the wake-up (R276). -/
def Bank.woken (c : Config) (b : Bank) (i : Nat) : LsqEntry :=
  if b.lsqOccupied c i then wakeLsq b.rob (b.lsqAt i) (b.lsqAt i) else b.lsqAt i

/-- What the LSQ step makes of the bank `b` (R274). -/
structure QueueStepped (c : Config) (b n : Bank) : Prop where
  rob : Finishing (fun i => b.storeFinishes c i ∨ b.loadFinishes i) b.rob n.rob
  lsqLength : n.lsq.length = b.lsq.length
  lsqAt : ∀ i < b.lsq.length, n.lsqAt i = b.woken c i
  lsqHead : n.lsqHead = if b.performs then lsqNext c b.lsqHead else b.lsqHead
  inflight : n.lsqInflight = true → b.performs = false
    ∧ (b.lsqInflight = true ∨ b.lsqEmpty = false ∧ (b.lsqAt b.lsqHead).ready = true)
  count : b.lsqCount ≤ 2#2 → n.lsqCount ≤ 2#2

/-- In a cycle without an access only the stores report. -/
theorem finishing_of_not_performs (c : Config) {b : Bank} (h : b.performs = false) (r : Vector RobEntry 32) :
    Finishing (fun i => b.storeFinishes c i ∨ b.loadFinishes i) r (reportStores c b r) :=
  (finishing_reportStores c b r).of_iff fun i => by simp [Bank.loadFinishes, h]

theorem lsqStep_stepped {s t : State} (h : lsqStep (beginCycle s) = .next t) :
    QueueStepped s.cfg s.cur t.nxt := by
  have hat (i : Nat) (hi : i < s.cur.lsq.length) :
      (lsqWake (beginCycle s)).nxt.lsqAt i = s.cur.woken s.cfg i := lsqWake_lsqAt (beginCycle s) hi
  have hlen : (lsqWake (beginCycle s)).nxt.lsq.length = s.cur.lsq.length := by simp [lsqWake]
  rcases memPipeline_cases h with ⟨hi, hc, rfl⟩ | ⟨hi, hc, -, rfl⟩ | ⟨hi, he, hr, rfl⟩ | ⟨hi, -, rfl⟩
  · have hp : s.cur.performs = false := by simpa [Bank.performs] using fun _ => hc
    refine ⟨finishing_of_not_performs _ hp _, hlen, hat, by simp [hp, lsqWake], fun _ => ⟨hp, .inl hi⟩, ?_⟩
    intro hle
    have hc : s.cur.lsqCount ≠ 0#2 := hc
    show s.cur.lsqCount - 1#2 ≤ 2#2
    bv_omega
  · have hp : s.cur.performs = true := by simp_all [Bank.performs]
    have hn := performAccess_nxt (s.cur.lsqAt s.cur.lsqHead) (lsqWake (beginCycle s))
    refine ⟨?_, ?_, ?_, by simp [hp], by simp, ?_⟩
    · exact ((finishing_reportStores s.cfg s.cur s.cur.rob).trans
        (finishing_performAccess (s.cur.lsqAt s.cur.lsqHead) (lsqWake (beginCycle s)))).of_iff
          fun i => by simp [Bank.loadFinishes, hp]
    · exact (congrArg (·.lsq.length) hn).trans hlen
    · exact fun i hl => (congrArg (·.lsqAt i) hn).trans (hat i hl)
    · intro hle
      exact (congrArg (·.lsqCount ≤ 2#2) hn).mpr hle
  · have hi : s.cur.lsqInflight = false := hi
    have hp : s.cur.performs = false := by simp [Bank.performs, hi]
    exact ⟨finishing_of_not_performs _ hp _, hlen, hat, by simp [hp, lsqWake], fun _ => ⟨hp, .inr ⟨he, hr⟩⟩,
      fun _ => show memCountdown ≤ 2#2 by decide⟩
  · have hi : s.cur.lsqInflight = false := hi
    have hp : s.cur.performs = false := by simp [Bank.performs, hi]
    exact ⟨finishing_of_not_performs _ hp _, hlen, hat, by simp [hp, lsqWake],
      fun hf => absurd (hi.symm.trans hf) (by decide), fun hle => hle⟩

/-! ### The fetch step -/

/-- Slot `q` is occupied by a RegisterWrite whose value is not known yet: what an operand can wait for (R156). -/
structure Bank.Pending (b : Bank) (q : Slot) : Prop where
  occupied : b.robOccupied q = true
  kind : (slotGet b.rob q).kind = .registerWrite
  notReady : (slotGet b.rob q).ready = false

/-- What the fetch step stages of an instruction: nothing, a RoB entry alone, or a RoB entry `e` with a station entry
in slot `k` or with a queue entry (R160 to R173). -/
inductive Staging
  | nothing
  | alone (e : RobEntry)
  | station (e : RobEntry) (k : Nat) (r : RsEntry)
  | queue (e : RobEntry) (q : LsqEntry)

/-- The RoB entry staged. -/
def Staging.entry : Staging → Option RobEntry
  | .nothing => none
  | .alone e | .station e _ _ | .queue e _ => some e

/-- The instruction staged is END. -/
def Staging.isEnd (st : Staging) : Bool := st.entry.any (·.kind == .endProg)

def Staging.rob (st : Staging) (t : Slot) (r : Vector RobEntry 32) : Vector RobEntry 32 :=
  match st.entry with
  | some e => slotSet r t e
  | none => r

/-- The buffer's tail: `next` when a RoB entry is staged, else `old`. -/
def Staging.robTail (st : Staging) (next old : Slot) : Slot := if st.entry.isSome then next else old

def Staging.reg (st : Staging) (t : Slot) (r : Vector RegEntry 32) : Vector RegEntry 32 :=
  match st.entry with
  | some e => if e.kind = .registerWrite then renamedRegs (e.dest.setWidth 5) t r else r
  | none => r

def Staging.rs (st : Staging) (l : List RsEntry) : List RsEntry :=
  match st with
  | .station _ k r => l.set k r
  | .nothing | .alone _ | .queue .. => l

def Staging.lsq (st : Staging) (t : Nat) (l : List LsqEntry) : List LsqEntry :=
  match st with
  | .queue _ q => l.set t q
  | .nothing | .alone _ | .station .. => l

/-- The queue's tail: `next` when a queue entry is staged, else `old`. -/
def Staging.lsqTail (st : Staging) (next old : Nat) : Nat :=
  match st with
  | .queue .. => next
  | .nothing | .alone _ | .station .. => old

/-- A station entry that may be pushed with the RoB entry `e` (R193, R194). -/
structure StationPush (b : Bank) (e : RobEntry) (k : Nat) (r : RsEntry) : Prop where
  inRange : k < b.rs.length
  free : (b.rsAt k).empty = true
  kind : e.kind = if r.op.isBranch then .branch else .registerWrite
  notReady : e.ready = false
  empty : r.empty = false
  issued : r.issued = false
  busy : r.busy = (r.q1c || r.q2c)
  rob : r.rob = b.robTail
  wait1 : r.q1c = true → b.Pending r.q1
  wait2 : r.q2c = true → b.Pending r.q2

/-- A queue entry that may be pushed with the RoB entry `e` (R273, R275, R277). -/
structure QueuePush (c : Config) (b : Bank) (e : RobEntry) (q : LsqEntry) : Prop where
  room : b.lsqFull c = false
  notReady : e.ready = false
  load : q.type.isLoad = true → e.kind = .registerWrite ∧ q.ready = !q.basec ∧ q.valuec = false
  store : q.type.isStore = true → e.kind = .memoryWrite ∧ e.dest = BitVec.ofNat 32 b.lsqTail ∧ q.ready = false
  rob : q.rob = b.robTail
  waitBase : q.basec = true → b.Pending q.baseq
  waitValue : q.valuec = true → b.Pending q.valueq

/-- Where the fetch unit dispatches: not stopped, not behind a JALR, not before a full buffer (R150). -/
structure Bank.MayFetch (b : Bank) : Prop where
  notFull : b.robFull = false
  notStopped : b.fetchStopped = false
  notWaiting : b.jalrWait.valid = false

/-- What is staged fits the bank `b` it was decided in. -/
structure StagingOk (c : Config) (b : Bank) (st : Staging) : Prop where
  room : ∀ e, st.entry = some e → b.MayFetch
  dest : ∀ e, st.entry = some e → e.kind = .registerWrite → ∃ rd : Reg, e.dest = rd.setWidth 32
  alone : ∀ e, st = .alone e → e.ready = true ∧ e.kind ≠ .memoryWrite
  station : ∀ e k r, st = .station e k r → StationPush b e k r
  queue : ∀ e q, st = .queue e q → QueuePush c b e q

theorem StagingOk.nothing (c : Config) (b : Bank) : StagingOk c b .nothing := by
  constructor <;> simp [Staging.entry]

/-- The dispatch leading from `s` to `t` stages `st`; a JALR wait it starts is for a pending slot (R168). -/
structure Staged (st : Staging) (s t : State) : Prop where
  rob : t.nxt.rob = st.rob s.cur.robTail s.nxt.rob
  robTail : t.nxt.robTail = st.robTail (s.cur.robTail + 1#5) s.nxt.robTail
  reg : t.nxt.reg = st.reg s.cur.robTail s.nxt.reg
  rs : t.nxt.rs = st.rs s.nxt.rs
  lsq : t.nxt.lsq = st.lsq s.cur.lsqTail s.nxt.lsq
  lsqTail : t.nxt.lsqTail = st.lsqTail (lsqNext s.cfg s.cur.lsqTail) s.nxt.lsqTail
  stopped : t.nxt.fetchStopped = (st.isEnd || s.nxt.fetchStopped)
  waits : t.nxt.jalrWait.valid = true →
    t.nxt.jalrWait = s.nxt.jalrWait ∨
      s.cur.Pending t.nxt.jalrWait.q ∧ (∃ e, st.entry = some e) ∧ st.isEnd = false

/-- The next copy `m` with `st` staged into it from the current copy `b`. -/
def Staging.apply (st : Staging) (c : Config) (b m : Bank) : Bank :=
  { m with
    rob := st.rob b.robTail m.rob
    robTail := st.robTail (b.robTail + 1#5) m.robTail
    reg := st.reg b.robTail m.reg
    rs := st.rs m.rs
    lsq := st.lsq b.lsqTail m.lsq
    lsqTail := st.lsqTail (lsqNext c b.lsqTail) m.lsqTail
    fetchStopped := st.isEnd || m.fetchStopped }

theorem Staged.of_nxt {st : Staging} {s t : State} {p : Word} {w : JalrWait}
    (h : t.nxt = { st.apply s.cfg s.cur s.nxt with pc := p, jalrWait := w })
    (hw : w.valid = true → w = s.nxt.jalrWait ∨
        s.cur.Pending w.q ∧ (∃ e, st.entry = some e) ∧ st.isEnd = false) :
    Staged st s t := by
  constructor
  case waits => rwa [h]
  all_goals rw [h]; rfl

theorem Staged.refl (s : State) : Staged .nothing s s := .of_nxt rfl fun _ => .inl rfl

/-- The way from `s` to `t` stages something that fits the current bank of `s`. -/
def Stages (s t : State) : Prop := ∃ st, StagingOk s.cfg s.cur st ∧ Staged st s t

theorem Stages.refl (s : State) : Stages s s := ⟨.nothing, .nothing .., .refl s⟩

/-- A register that resolves to a wait names a pending slot (R156, R347). -/
theorem resolve_pending {s : State} {r : Reg} {q : Slot} (hr : RatOk s.cur) (h : resolve s r = .wait q) :
    s.cur.Pending q := by
  unfold resolve at h
  dsimp only at h
  split at h
  · cases h
  · split at h
    · cases h
    · next hd =>
      split at h
      · cases h
      · next hp =>
        cases h
        obtain ⟨ho, hk, -⟩ := hr.dirtyHasProducer r (by simpa using hd)
        exact ⟨ho, hk, by simpa using hp⟩

/-- An operand that is a value, or waits for a pending slot. -/
def Operand.Ok (b : Bank) (o : Operand) : Prop := o.constraint = true → b.Pending o.producer

theorem resolve_ok {s : State} (hr : RatOk s.cur) (r : Reg) : (resolve s r).Ok s.cur := by
  intro hc
  cases h : resolve s r with
  | value v => simp [h, Operand.constraint] at hc
  | wait q => exact resolve_pending hr h

theorem Operand.value_ok (b : Bank) (v : Word) : (Operand.value v).Ok b := nofun

/-- The free slot found is an empty one (R194). -/
theorem freeRsSlot_eq_some {b : Bank} {k : Nat} (h : freeRsSlot b.rs = some k) :
    k < b.rs.length ∧ (b.rsAt k).empty = true := by
  obtain ⟨hk, he, -⟩ := List.findIdx?_eq_some_iff_getElem.mp h
  exact ⟨hk, by simpa [Bank.rsAt, List.getD, hk] using he⟩

theorem stagingOk_alone {c : Config} {b : Bank} {e : RobEntry} (hf : b.MayFetch)
    (hd : e.kind = .registerWrite → ∃ rd : Reg, e.dest = rd.setWidth 32) (he : e.ready = true)
    (hk : e.kind ≠ .memoryWrite) : StagingOk c b (.alone e) :=
  ⟨fun _ _ => hf, by simpa [Staging.entry] using hd, by simpa using ⟨he, hk⟩, by simp, by simp⟩

theorem stagingOk_station {c : Config} {b : Bank} {e : RobEntry} {k : Nat} {r : RsEntry} (hf : b.MayFetch)
    (hd : e.kind = .registerWrite → ∃ rd : Reg, e.dest = rd.setWidth 32) (hp : StationPush b e k r) :
    StagingOk c b (.station e k r) :=
  ⟨fun _ _ => hf, by simpa [Staging.entry] using hd, by simp,
    by rintro _ _ _ ⟨⟩; exact hp, by simp⟩

theorem stagingOk_queue {c : Config} {b : Bank} {e : RobEntry} {q : LsqEntry} (hf : b.MayFetch)
    (hd : e.kind = .registerWrite → ∃ rd : Reg, e.dest = rd.setWidth 32) (hp : QueuePush c b e q) :
    StagingOk c b (.queue e q) :=
  ⟨fun _ _ => hf, by simpa [Staging.entry] using hd, by simp, by simp,
    by rintro _ _ ⟨⟩; exact hp⟩

theorem rsEntry_push {b : Bank} {e : RobEntry} {k : Nat} {op : RsOp} {o1 o2 : Operand}
    (hk : freeRsSlot b.rs = some k) (h1 : o1.Ok b) (h2 : o2.Ok b) (hr : e.ready = false)
    (hop : e.kind = if op.isBranch then .branch else .registerWrite) :
    StationPush b e k (rsEntry op b.robTail o1 o2) :=
  ⟨(freeRsSlot_eq_some hk).1, (freeRsSlot_eq_some hk).2, hop, hr, rfl, rfl, rfl, rfl, h1, h2⟩

section
variable {s t : State} (hr : RatOk s.cur) (hf : s.cur.MayFetch)

include hf in
theorem dispatchReady_staged {rd : Reg} {v a : Word} (h : dispatchReady rd v a s = .next t) :
    Stages s t := by
  rw [dispatchReady_of_not_full hf.notFull] at h
  cases h
  exact ⟨.alone (regWriteEntry rd true v), stagingOk_alone hf (fun _ => ⟨rd, rfl⟩) rfl (by simp [regWriteEntry]),
    .of_nxt rfl fun _ => .inl rfl⟩

include hf in
theorem dispatchComputational_staged {op : RsOp} {rd : Reg} {o1 o2 : Operand} (hop : op.isBranch = false)
    (h1 : o1.Ok s.cur) (h2 : o2.Ok s.cur) (h : dispatchComputational op rd o1 o2 s = .next t) :
    Stages s t := by
  cases hk : freeRsSlot s.cur.rs with
  | none =>
    simp only [dispatchComputational, hk] at h
    cases h
    exact .refl s
  | some k =>
    rw [dispatchComputational_of_room hf.notFull hk] at h
    cases h
    exact ⟨.station _ k _, stagingOk_station hf (fun _ => ⟨rd, rfl⟩)
      (rsEntry_push (e := regWriteEntry rd false 0#32) (op := op) hk h1 h2 rfl (by simp [hop, regWriteEntry])),
      .of_nxt rfl fun _ => .inl rfl⟩

include hr hf in
theorem dispatchBranch_staged {op : RsOp} {r1 r2 : Reg} {off : Word} (hop : op.isBranch = true)
    (h : dispatchBranch op r1 r2 off s = .next t) : Stages s t := by
  cases hk : freeRsSlot s.cur.rs with
  | none =>
    simp only [dispatchBranch, hk] at h
    cases h
    exact .refl s
  | some k =>
    rw [dispatchBranch_of_room hf.notFull hk] at h
    cases h
    exact ⟨.station _ k _, stagingOk_station hf (by simp [branchEntry])
      (rsEntry_push (e := branchEntry (predict s s.cur.pc) (s.cur.pc + off) s.cur.pc) (op := op) hk
        (resolve_ok hr r1) (resolve_ok hr r2) rfl (by simp [hop, branchEntry])),
      .of_nxt rfl fun _ => .inl rfl⟩

include hr hf in
theorem dispatchLoad_staged {ty : LsqType} {rd r1 : Reg} {off : Word} (hty : ty.isLoad = true)
    (h : dispatchLoad ty rd r1 off s = .next t) : Stages s t := by
  cases hq : s.cur.lsqFull s.cfg with
  | true =>
    simp only [dispatchLoad, hq] at h
    cases h
    exact .refl s
  | false =>
    rw [dispatchLoad_of_room hf.notFull hq] at h
    cases h
    exact ⟨.queue _ _, stagingOk_queue (e := regWriteEntry rd false 0#32)
      (q := loadEntry ty s.cur.robTail (resolve s r1) off) hf (fun _ => ⟨rd, rfl⟩)
      ⟨hq, rfl, fun _ => ⟨rfl, rfl, rfl⟩, by simp [loadEntry, LsqType.isStore, hty], rfl, resolve_ok hr r1,
        nofun⟩,
      .of_nxt rfl fun _ => .inl rfl⟩

include hr hf in
theorem dispatchStore_staged {ty : LsqType} {r1 r2 : Reg} {off : Word} (hty : ty.isStore = true)
    (h : dispatchStore ty r1 r2 off s = .next t) : Stages s t := by
  have hld : ty.isLoad = false := by simpa [LsqType.isStore] using hty
  cases hq : s.cur.lsqFull s.cfg with
  | true =>
    simp only [dispatchStore, hq] at h
    cases h
    exact .refl s
  | false =>
    rw [dispatchStore_of_room hf.notFull hq] at h
    cases h
    exact ⟨.queue _ _, stagingOk_queue (e := memWriteEntry s.cur.lsqTail)
      (q := storeEntry ty s.cur.robTail (resolve s r1) (resolve s r2) off) hf (by simp [memWriteEntry])
      ⟨hq, rfl, by simp [storeEntry, hld], fun _ => ⟨rfl, rfl, rfl⟩, rfl, resolve_ok hr r1, resolve_ok hr r2⟩,
      .of_nxt rfl fun _ => .inl rfl⟩

include hf in
theorem execEnd_staged (h : execEnd s = .next t) : Stages s t := by
  rw [execEnd, robAdd_of_not_full hf.notFull] at h
  cases h
  exact ⟨.alone endEntry, stagingOk_alone hf nofun rfl (by simp [endEntry]), .of_nxt rfl fun _ => .inl rfl⟩

include hf in
theorem execAuipc_staged {rd : Reg} {imm : BitVec 20} (h : execAuipc rd imm s = .next t) :
    Stages s t := by
  unfold execAuipc at h
  split at h
  · cases h; exact ⟨.nothing, .nothing .., .of_nxt rfl fun _ => .inl rfl⟩
  · cases h; exact ⟨.nothing, .nothing .., .of_nxt rfl fun _ => .inl rfl⟩
  · exact dispatchReady_staged hf h

include hr hf in
/-- A JALR whose base is not known waits for the pending slot the base names (R168). -/
theorem execJalr_staged {rd rs1 : Reg} {imm : BitVec 12} (h : execJalr rd rs1 imm s = .next t) :
    Stages s t := by
  rw [execJalr, robAdd_of_not_full hf.notFull, bindNext_next] at h
  refine ⟨.alone (regWriteEntry rd true (s.cur.pc + 4#32)),
    stagingOk_alone hf (fun _ => ⟨rd, rfl⟩) rfl (by simp [regWriteEntry]), ?_⟩
  split at h
  · cases h
    exact .of_nxt rfl fun _ => .inl rfl
  · next q hq =>
    cases h
    exact .of_nxt rfl fun _ => .inr ⟨resolve_pending hr hq, ⟨_, rfl⟩, rfl⟩

include hr hf in
/-- Every instruction's meaning stages something that fits the current bank. -/
theorem exec_staged {i : Instr} (h : exec i s = .next t) : Stages s t := by
  cases i with
  | endProg => exact execEnd_staged hf h
  | auipc => exact execAuipc_staged hf h
  | jalr => exact execJalr_staged hr hf h
  | lui | jal => exact dispatchReady_staged hf h
  | beq | bne | blt | bge | bltu | bgeu => exact dispatchBranch_staged hr hf rfl h
  | lb | lh | lw | lbu | lhu => exact dispatchLoad_staged hr hf rfl h
  | sb | sh | sw => exact dispatchStore_staged hr hf rfl h
  | addi | slti | sltiu | xori | ori | andi | slli | srli | srai =>
    exact dispatchComputational_staged hf rfl (resolve_ok hr _) (Operand.value_ok _ _) h
  | add | sub | sll | slt | sltu | xor | srl | sra | or | and =>
    exact dispatchComputational_staged hf rfl (resolve_ok hr _) (resolve_ok hr _) h

end

/-- The fetch step stages something that fits the current bank (R150). -/
theorem fetchStep_staged {s t : State} (hr : RatOk s.cur) (h : fetchStep s = .next t) :
    Stages s t := by
  rcases fetchStep_cases h with rfl | ⟨-, -, rfl⟩ | ⟨hs, hw, hn, i, -, hi⟩
  · exact .refl t
  · unfold resolveJalr
    dsimp only
    split
    · exact ⟨.nothing, .nothing .., .of_nxt rfl nofun⟩
    · exact .refl s
  · exact exec_staged hr ⟨hn, hs, hw⟩ hi

/-- A wait that lasts is for a slot that is not ready (R152). -/
theorem fetchStep_wait {s t : State} (h : fetchStep s = .next t) (hs : s.cur.fetchStopped = false)
    (hw : s.cur.jalrWait.valid = true) (ht : t.nxt.jalrWait.valid = true) :
    (slotGet s.cur.rob s.cur.jalrWait.q).ready = false := by
  have hres : fetchStep s = .next (resolveJalr s) := by simp [fetchStep, hs, hw]
  rw [hres] at h
  cases h
  by_contra hready
  rw [Bool.not_eq_false] at hready
  simp [resolveJalr, hready] at ht

/-! ### One cycle -/

/-- The staged RoB entry renames register `i` (R176). -/
def Staging.names (st : Staging) (i : Reg) : Prop :=
  ∃ e, st.entry = some e ∧ e.kind = .registerWrite ∧ e.dest = i.setWidth 32

/-- Queue slot `i` after the wake-up and the dispatch. -/
def Staging.lsqAt (st : Staging) (c : Config) (b : Bank) (i : Nat) : LsqEntry :=
  match st with
  | .queue _ q => if i = b.lsqTail then q else b.woken c i
  | .nothing | .alone _ | .station .. => b.woken c i

/-- The head's commit gives register `i` its value and leaves no newer rename of it pending (R344). -/
def Bank.retires (b : Bank) (i : Reg) : Prop :=
  b.robHeadEntry.kind = .registerWrite ∧ b.robHeadEntry.dest.setWidth 5 = i ∧ (slotGet b.reg i).dep = b.robHead

/-- The head's commit authorises the store in queue slot `i` (R318). -/
def Bank.authorises (b : Bank) (i : Nat) : Bool :=
  b.robHeadEntry.kind == .memoryWrite && b.robHeadEntry.dest.toNat == i

/-- The unit that the entry of station slot `k` is granted (R197). -/
def Bank.grant (b : Bank) (k : Nat) : Option FuInst := (issueGrants b.fu b.rs).getD k none

/-- `n` is what a cycle from the bank `b` stages when the fetch step stages `st`: before its commit step (`pop` is
false), or after a commit that pops the head (`pop` is true). A flush is `flushBank` of such a bank. -/
structure Advance (c : Config) (b : Bank) (st : Staging) (pop : Bool) (n : Bank) : Prop where
  popOk : pop = true → b.commits = true ∧ b.robHeadEntry.kind ≠ .endProg
  robHead : n.robHead = if pop then b.robHead + 1#5 else b.robHead
  robTail : n.robTail = st.robTail (b.robTail + 1#5) b.robTail
  rob : ∃ r, Finishing (fun i => b.storeFinishes c i ∨ b.loadFinishes i) b.rob r
    ∧ Finishing b.unitFinishes (st.rob b.robTail r) n.rob
  regZero : slotGet n.reg 0#5 = slotGet b.reg 0#5
  regNamed : ∀ i, i ≠ 0#5 → st.names i → (slotGet n.reg i).dirty = true ∧ (slotGet n.reg i).dep = b.robTail
  regKept : ∀ i, i ≠ 0#5 → ¬st.names i → (slotGet n.reg i).dep = (slotGet b.reg i).dep
    ∧ ((slotGet n.reg i).dirty = true ↔ (slotGet b.reg i).dirty = true ∧ ¬(pop = true ∧ b.retires i))
  stopped : n.fetchStopped = (st.isEnd || b.fetchStopped)
  waits : n.jalrWait.valid = true →
    n.jalrWait = b.jalrWait ∧ (b.fetchStopped = false → (slotGet b.rob b.jalrWait.q).ready = false)
      ∨ b.Pending n.jalrWait.q ∧ (∃ e, st.entry = some e) ∧ st.isEnd = false
  rs : n.rs = (st.rs b.rs).mapIdx fun k e => rsSlotStep b (b.grant k).isSome (b.rsAt k) e
  fu : n.fu = acceptAll (harvestFu b.fu b.fu) b.rs (issueGrants b.fu b.rs)
  lsqLength : n.lsq.length = b.lsq.length
  lsqAt : ∀ i < b.lsq.length,
    n.lsqAt i = { st.lsqAt c b i with ready := (st.lsqAt c b i).ready || pop && b.authorises i }
  lsqHead : n.lsqHead = if b.performs then lsqNext c b.lsqHead else b.lsqHead
  lsqTail : n.lsqTail = st.lsqTail (lsqNext c b.lsqTail) b.lsqTail
  inflight : n.lsqInflight = true → b.performs = false
    ∧ (b.lsqInflight = true ∨ b.lsqEmpty = false ∧ (b.lsqAt b.lsqHead).ready = true)
  count : b.lsqCount ≤ 2#2 → n.lsqCount ≤ 2#2

/-- A write to one slot of a list, read by `getD`. -/
theorem getD_set {α : Type} (l : List α) {i k : Nat} (a d : α) (h : i < l.length) :
    (l.set k a).getD i d = if i = k then a else l.getD i d := by
  rcases eq_or_ne i k with rfl | hk
  · simp [h]
  · simp [hk, hk.symm]

theorem Staging.lsqAt_of_stepped {st : Staging} {c : Config} {b m n : Bank} (hm : QueueStepped c b m)
    (hn : n.lsq = st.lsq b.lsqTail m.lsq) {i : Nat} (hi : i < b.lsq.length) : n.lsqAt i = st.lsqAt c b i := by
  have hl : i < m.lsq.length := hm.lsqLength ▸ hi
  cases st with
  | queue e q =>
    rw [Bank.lsqAt, hn, Staging.lsq, getD_set _ _ _ hl]
    simp only [Staging.lsqAt, ← hm.lsqAt i hi, Bank.lsqAt]
  | nothing | alone e | station e k r =>
    simpa [Bank.lsqAt, hn, Staging.lsq, Staging.lsqAt] using hm.lsqAt i hi

theorem Staging.length_lsq (st : Staging) (t : Nat) (l : List LsqEntry) : (st.lsq t l).length = l.length := by
  cases st <;> simp [Staging.lsq]

theorem Staging.length_rs (st : Staging) (l : List RsEntry) : (st.rs l).length = l.length := by
  cases st <;> simp [Staging.rs]

theorem Staging.reg_zero (st : Staging) (t : Slot) (r : Vector RegEntry 32) :
    slotGet (st.reg t r) 0#5 = slotGet r 0#5 := by
  unfold Staging.reg
  split
  · split
    · exact renamedRegs_zero ..
    · rfl
  · rfl

/-- A rename marks its register and names the slot (R343). -/
theorem renamedRegs_same {i : Reg} (hi : i ≠ 0#5) (t : Slot) (r : Vector RegEntry 32) :
    slotGet (renamedRegs i t r) i = { slotGet r i with dirty := true, dep := t } := by
  simp [renamedRegs, hi]

theorem Staging.reg_of_names {st : Staging} {i : Reg} (hi : i ≠ 0#5) (h : st.names i) (t : Slot)
    (r : Vector RegEntry 32) : slotGet (st.reg t r) i = { slotGet r i with dirty := true, dep := t } := by
  obtain ⟨e, he, hk, hd⟩ := h
  simp [Staging.reg, he, hk, hd, renamedRegs_same hi]

theorem Staging.reg_of_not_names {c : Config} {b : Bank} {st : Staging} (hst : StagingOk c b st) {i : Reg}
    (h : ¬st.names i) (t : Slot) (r : Vector RegEntry 32) : slotGet (st.reg t r) i = slotGet r i := by
  unfold Staging.reg
  split
  · next e he =>
    split
    · next hk =>
      obtain ⟨rd, hd⟩ := hst.dest e he hk
      refine renamedRegs_ne _ _ fun hi => h ⟨e, he, hk, ?_⟩
      rw [hi, hd, setWidth_dest]
    · rfl
  · rfl

/-- The LSQ, fetch and RS steps of a cycle. -/
theorem computed_advance {s s1 s2 : State} (hr : RatOk s.cur) (h1 : lsqStep (beginCycle s) = .next s1)
    (h2 : fetchStep s1 = .next s2) :
    ∃ st, StagingOk s.cfg s.cur st ∧ Advance s.cfg s.cur st false (rsStep s2).nxt := by
  obtain ⟨c1, c2, g1, g2, -⟩ := step_units_cur h1 h2
  have hq := lsqStep_stepped h1
  have f1 := (lsqStep_frame h1).nxt
  have f2 := fetchStep_frame h2
  obtain ⟨st, hst, hs⟩ := fetchStep_staged (c1 ▸ hr) h2
  rw [c1, g1] at hst
  have hwait := fetchStep_wait h2
  obtain ⟨rob, robTail, reg, rs, lsq, lsqTail, stopped, waits⟩ := hs
  have robTail1 : s1.nxt.robTail = s.cur.robTail := congrArg (·.robTail) f1
  have reg1 : s1.nxt.reg = s.cur.reg := congrArg (·.reg) f1
  have rs1 : s1.nxt.rs = s.cur.rs := congrArg (·.rs) f1
  have lsqTail1 : s1.nxt.lsqTail = s.cur.lsqTail := congrArg (·.lsqTail) f1
  have fetchStopped1 : s1.nxt.fetchStopped = s.cur.fetchStopped := congrArg (·.fetchStopped) f1
  have jalrWait1 : s1.nxt.jalrWait = s.cur.jalrWait := congrArg (·.jalrWait) f1
  have fu1 : s1.nxt.fu = s.cur.fu := congrArg (·.fu) f1
  have robHead1 : s1.nxt.robHead = s.cur.robHead := congrArg (·.robHead) f1
  rw [c1] at rob robTail reg lsq lsqTail hwait waits
  rw [robTail1] at robTail
  rw [reg1] at reg
  rw [rs1] at rs
  rw [lsqTail1, g1] at lsqTail
  rw [fetchStopped1] at stopped
  rw [jalrWait1] at waits
  refine ⟨st, hst, ?_⟩
  exact {
    popOk := nofun
    robHead := f2.robHead.trans robHead1
    robTail := robTail
    rob := ⟨s1.nxt.rob, hq.rob, by
      have hf := finishing_harvestRob s2.cur s2.nxt.rob
      rw [c2, rob] at hf
      exact (congrArg (Finishing _ _) (by simp [rsStep, c2, rob])).mpr hf⟩
    regZero := by
      show slotGet s2.nxt.reg 0#5 = _
      rw [reg, Staging.reg_zero]
    regNamed := fun i hi hn => by
      show (slotGet s2.nxt.reg i).dirty = true ∧ (slotGet s2.nxt.reg i).dep = _
      simp [reg, Staging.reg_of_names hi hn]
    regKept := fun i hi hn => by
      show (slotGet s2.nxt.reg i).dep = _ ∧ ((slotGet s2.nxt.reg i).dirty = true ↔ _)
      simp [reg, Staging.reg_of_not_names hst hn]
    stopped := stopped
    waits := fun hv => (waits hv).imp_left fun he =>
      ⟨he, fun hns => hwait hns ((congrArg (·.valid) he).symm.trans hv) hv⟩
    rs := by simp [rsStep, c2, rs, Bank.grant]
    fu := by simp [rsStep, c2, f2.fu, fu1]
    lsqLength := by
      show s2.nxt.lsq.length = _
      rw [lsq, Staging.length_lsq, hq.lsqLength]
    lsqAt := fun i hi => by
      show s2.nxt.lsqAt i = _
      simp [Staging.lsqAt_of_stepped hq lsq hi]
    lsqHead := f2.lsqHead.trans hq.lsqHead
    lsqTail := lsqTail
    inflight := fun hi => hq.inflight (f2.lsqInflight ▸ hi)
    count := fun hc => f2.lsqCount ▸ hq.count hc }

/-! ### The commit step -/

section
variable {c : Config} {b n : Bank} {st : Staging} {pop : Bool}

/-- The staged RoB entry stands at the old tail. -/
theorem Advance.entry (hA : Advance c b st pop n) {e : RobEntry} (he : st.entry = some e) :
    (slotGet n.rob b.robTail).kind = e.kind ∧ (slotGet n.rob b.robTail).dest = e.dest := by
  obtain ⟨r, -, hf⟩ := hA.rob
  rw [hf.kind, hf.dest]
  simp [Staging.rob, he]

/-- Any other slot keeps its kind and destination. -/
theorem Advance.slot (hA : Advance c b st pop n) {i : Slot} (hi : st.entry.isSome = true → i ≠ b.robTail) :
    (slotGet n.rob i).kind = (slotGet b.rob i).kind ∧ (slotGet n.rob i).dest = (slotGet b.rob i).dest := by
  obtain ⟨r, hq, hf⟩ := hA.rob
  rw [hf.kind, hf.dest, ← hq.kind, ← hq.dest]
  unfold Staging.rob
  split
  · next e he => rw [slotGet_slotSet_ne _ _ (hi (by simp [he]))]; exact ⟨rfl, rfl⟩
  · exact ⟨rfl, rfl⟩

end

/-- The commit step sees a rename of this cycle exactly when one was staged (R344). -/
theorem renamedThisCycle_iff {c : Config} {s : State} {st : Staging} {pop : Bool}
    (hA : Advance c s.cur st pop s.nxt) (i : Reg) : s.renamedThisCycle i = true ↔ st.names i := by
  cases he : st.entry with
  | none => simp [State.renamedThisCycle, Staging.names, hA.robTail, Staging.robTail, he]
  | some e =>
    obtain ⟨hk, hd⟩ := hA.entry he
    simp [State.renamedThisCycle, Staging.names, hA.robTail, Staging.robTail, he, hk, hd]

theorem regWrite_zero (i : Reg) (v : Word) (h : Slot) (s : State) :
    slotGet (regWrite i v h s).nxt.reg 0#5 = slotGet s.nxt.reg 0#5 := by
  unfold regWrite
  split
  · rfl
  · next hi => exact slotGet_slotSet_ne _ _ (Ne.symm hi)

/-- What a write does to the rename of a register (R344): `dep` stands, `dirty` is cleared where the register's newest
rename commits. -/
theorem regWrite_dirty_dep (i : Reg) (v : Word) (h : Slot) (s : State) {j : Reg} (hj : j ≠ 0#5) :
    (slotGet (regWrite i v h s).nxt.reg j).dep = (slotGet s.nxt.reg j).dep
      ∧ ((slotGet (regWrite i v h s).nxt.reg j).dirty = true ↔ (slotGet s.nxt.reg j).dirty = true
        ∧ ¬(i = j ∧ (slotGet s.cur.reg j).dep = h ∧ s.renamedThisCycle j = false)) := by
  by_cases hij : i = j
  · subst hij
    simp only [regWrite, hj, if_false, slotGet_slotSet_same, true_and]
    cases (slotGet s.nxt.reg i).dirty <;> simp [imp_iff_not_or]
  · have hne : slotGet (regWrite i v h s).nxt.reg j = slotGet s.nxt.reg j := by
      unfold regWrite
      split
      · rfl
      · exact slotGet_slotSet_ne _ _ (Ne.symm hij)
    simp [hne, hij]

section
variable {c : Config} {s t : State} {st : Staging} (hA : Advance c s.cur st false s.nxt)
include hA

/-- The pop of the ready head, where nothing else is committed. -/
theorem robPop_advance (hc : s.cur.commits = true) (hk : s.cur.robHeadEntry.kind = .branch) :
    Advance c s.cur st true (robPop s).nxt :=
  { hA with
    popOk := fun _ => ⟨hc, by simp [hk]⟩
    robHead := rfl
    regKept := fun i hi hn => by
      simpa [Bank.retires, hk] using hA.regKept i hi hn
    lsqAt := fun i hi => (hA.lsqAt i hi).trans (by simp [Bank.authorises, hk]) }

theorem predUpdate_advance (a : Word) (o : Bool) :
    Advance c (predUpdate a o s).cur st false (predUpdate a o s).nxt := by
  rw [predUpdate_cur, predUpdate_nxt]
  exact { hA with }

theorem commitRegister_advance (hc : s.cur.commits = true) (hk : s.cur.robHeadEntry.kind = .registerWrite)
    (h : commitRegister s.cur.robHeadEntry s = .next t) : Advance c s.cur st true t.nxt := by
  cases h
  rw [robPop_nxt, regWrite_cur, regWrite_nxt]
  have hwrite (i : Reg) (hi : i ≠ 0#5) := regWrite_dirty_dep (s.cur.robHeadEntry.dest.setWidth 5)
    s.cur.robHeadEntry.value s.cur.robHead s hi
  exact { hA with
    popOk := fun _ => ⟨hc, by simp [hk]⟩
    robHead := rfl
    regZero := (regWrite_zero ..).trans hA.regZero
    regNamed := fun i hi hn => by
      obtain ⟨hdep, hdirty⟩ := hwrite i hi
      have hren := (renamedThisCycle_iff hA i).mpr hn
      obtain ⟨hd, hp⟩ := hA.regNamed i hi hn
      exact ⟨hdirty.mpr ⟨hd, by simp [hren]⟩, hdep.trans hp⟩
    regKept := fun i hi hn => by
      obtain ⟨hdep, hdirty⟩ := hwrite i hi
      have hren : s.renamedThisCycle i = false := by simpa using mt (renamedThisCycle_iff hA i).mp hn
      obtain ⟨hp, hd⟩ := hA.regKept i hi hn
      refine ⟨hdep.trans hp, hdirty.trans ?_⟩
      rw [hd]
      simp [Bank.retires, hk, hren]
    lsqAt := fun i hi => (hA.lsqAt i hi).trans (by simp [Bank.authorises, hk]) }

theorem commitStore_advance (hc : s.cur.commits = true) (hk : s.cur.robHeadEntry.kind = .memoryWrite)
    (h : commitStore s.cur.robHeadEntry s = .next t) : Advance c s.cur st true t.nxt := by
  obtain ⟨hu, rfl⟩ := commitStore_eq_next h
  exact { hA with
    popOk := fun _ => ⟨hc, by simp [hk]⟩
    robHead := rfl
    regKept := fun i hi hn => by
      simpa [Bank.retires, hk] using hA.regKept i hi hn
    lsqLength := (List.length_set ..).trans hA.lsqLength
    lsqAt := fun i hi => by
      have hl : i < s.nxt.lsq.length := hA.lsqLength ▸ hi
      have hm := hA.lsqAt i hi
      show (s.nxt.lsq.set _ _).getD i LsqEntry.reset = _
      rw [getD_set _ _ _ hl]
      rcases eq_or_ne i s.cur.robHeadEntry.dest.toNat with rfl | hne
      · simp [Bank.authorises, hk, hm]
      · rw [if_neg hne, ← Bank.lsqAt, hm]
        simp [Bank.authorises, hk, hne.symm] }

end

/-- A committed branch trains the predictor; then it pops or flushes (R319). -/
theorem commitBranch_cases {e : RobEntry} {s t : State} (h : commitBranch e s = .next t) :
    t = robPop (predUpdate e.baddr (e.value != 0#32) s)
      ∨ t = flushMispredicted e (predUpdate e.baddr (e.value != 0#32) s) := by
  unfold commitBranch at h
  dsimp only at h
  injection h with h
  subst h
  split
  · exact .inl rfl
  · exact .inr rfl

/-- The three ends of a cycle: the commit step leaves or pops the head, it flushes, or it halts (R315 to R322). -/
theorem commitStep_advance {c : Config} {s t : State} {st : Staging} (hA : Advance c s.cur st false s.nxt)
    (h : commitStep s = .next t) :
    (t.status = s.status ∧ ∃ pop, Advance c s.cur st pop t.nxt)
      ∨ (t.status = s.status ∧ ∃ m i a, Advance c s.cur st false m ∧ t.nxt = flushBank s.cfg i a m)
      ∨ ∃ code, t = { s with status := .halted code } := by
  rcases commitStep_cases h with ⟨-, rfl⟩ | ⟨he, hr, hcase⟩
  · exact .inl ⟨rfl, false, hA⟩
  have hc : s.cur.commits = true := by simp [Bank.commits, he, Bank.robHeadEntry, hr]
  rcases hcase with ⟨hk, h⟩ | ⟨hk, h⟩ | ⟨hk, h⟩ | ⟨hk, h⟩
  · exact .inl ⟨by cases h; simp, true, commitRegister_advance hA hc hk h⟩
  · exact .inl ⟨by obtain ⟨-, rfl⟩ := commitStore_eq_next h; rfl, true, commitStore_advance hA hc hk h⟩
  · have hA' := predUpdate_advance hA s.cur.robHeadEntry.baddr (s.cur.robHeadEntry.value != 0#32)
    have hcur := predUpdate_cur s.cur.robHeadEntry.baddr (s.cur.robHeadEntry.value != 0#32) s
    rcases commitBranch_cases h with rfl | rfl
    · have hp := robPop_advance hA' (by rwa [hcur]) (by rwa [hcur])
      rw [hcur] at hp
      exact .inl ⟨predUpdate_status .., true, hp⟩
    · rw [hcur] at hA'
      exact .inr (.inl ⟨predUpdate_status .., _, _, _, hA', by rw [flushMispredicted_nxt, predUpdate_cfg]; rfl⟩)
  · cases h
    exact .inr (.inr ⟨_, rfl⟩)

/-- What a step makes of the current bank: it halts and keeps it, advances it, or flushes it. -/
theorem step_advance {s t : State} (hr : RatOk s.cur) (h : step s = .next t) :
    t.cur = s.cur ∨ ∃ st, StagingOk s.cfg s.cur st
      ∧ ((∃ pop, Advance s.cfg s.cur st pop t.cur)
        ∨ ∃ m i a k, Advance s.cfg s.cur st false m ∧ t.cur = { flushBank s.cfg i a m with clock := k }) := by
  obtain ⟨hs, s1, s2, s3, h1, h2, h3, rfl⟩ := step_cases h
  obtain ⟨-, c2, -, g2, -⟩ := step_units_cur h1 h2
  obtain ⟨st, hst, hA⟩ := computed_advance hr h1 h2
  have hrun : s2.status = .running := by rw [(fetchStep_frame h2).status, (lsqStep_frame h1).status]; exact hs
  have hend := commitStep_advance (s := rsStep s2) (by rw [rsStep_cur, c2]; exact hA) h3
  rw [rsStep_cur, c2, rsStep_status, hrun, rsStep_cfg, g2] at hend
  rcases hend with ⟨hs3, pop, hA⟩ | ⟨hs3, m, i, a, hA, hn⟩ | ⟨code, rfl⟩
  · refine .inr ⟨st, hst, .inl ⟨pop, ?_⟩⟩
    rw [endCycle, hs3]
    exact { hA with }
  · refine .inr ⟨st, hst, .inr ⟨m, i, a, s3.cur.clock + 1, hA, ?_⟩⟩
    rw [endCycle, hs3]
    simp [hn]
  · exact .inl rfl

/-- The invariant over one bank: `Inv` without memory and predictor. -/
structure BankInv (c : Config) (b : Bank) : Prop where
  valid : c.Valid
  shaped : Shaped c b
  zero : ZeroOk b
  rat : RatOk b
  station : StationOk b
  units : UnitsOk b
  queue : QueueOk c b
  owners : OwnersOk c b
  fetch : FetchOk b

theorem Inv.bank {s : State} (h : Inv s) : BankInv s.cfg s.cur :=
  ⟨h.valid, h.shaped, h.zero, h.rat, h.station, h.units, h.queue, h.owners, h.fetch⟩

theorem BankInv.inv {s : State} (h : BankInv s.cfg s.cur) (hm : Memory.wf s.mem) (hp : Predictor.Wf s.cur.pred) :
    Inv s :=
  ⟨h.valid, h.shaped, hm, hp, h.zero, h.rat, h.station, h.units, h.queue, h.owners, h.fetch⟩

/-! ### The reorder-buffer ring -/

theorem robOccupied_iff_age (b : Bank) (i : Slot) : b.robOccupied i = true ↔ b.robAge i < b.robAge b.robTail :=
  decide_eq_true_iff

theorem not_robOccupied_tail (b : Bank) : ¬b.robOccupied b.robTail = true := by simp [robOccupied_iff_age]

theorem robAge_eq_zero {b : Bank} {i : Slot} : b.robAge i = 0 ↔ i = b.robHead := by
  unfold Bank.robAge
  constructor <;> intro h
  · bv_omega
  · simp [h]

theorem robHead_occupied {b : Bank} (h : b.robEmpty = false) : b.robOccupied b.robHead = true := by
  have hne : b.robHead ≠ b.robTail := by simpa [Bank.robEmpty] using h
  rw [robOccupied_iff_age, robAge_eq_zero.mpr rfl]
  exact Nat.pos_of_ne_zero fun h0 => hne (robAge_eq_zero.mp h0).symm

theorem commits_iff (b : Bank) :
    b.commits = true ↔ b.robEmpty = false ∧ b.robHeadEntry.ready = true := by simp [Bank.commits]

section
variable {c : Config} {b n : Bank} {st : Staging} {pop : Bool} (hst : StagingOk c b st) (hA : Advance c b st pop n)
include hst hA

/-- The occupied slots after a cycle: those before it but a popped head, and the tail where an entry is allocated. -/
theorem Advance.robOccupied_iff (i : Slot) :
    n.robOccupied i = true ↔
      (b.robOccupied i = true ∧ ¬(pop = true ∧ i = b.robHead)) ∨
        ((∃ e, st.entry = some e) ∧ i = b.robTail) := by
  have hpop : pop = true → b.robHead ≠ b.robTail := fun hp => by
    simpa [Bank.robEmpty] using ((commits_iff b).mp (hA.popOk hp).1).1
  have hfull : st.entry.isSome = true → b.robTail + 1#5 ≠ b.robHead := fun he => by
    obtain ⟨e, he⟩ := Option.isSome_iff_exists.mp he
    simpa [Bank.robFull] using (hst.room e he).notFull
  rw [← Option.isSome_iff_exists]
  simp only [robOccupied_iff_age, Bank.robAge, hA.robHead, hA.robTail, Staging.robTail]
  generalize st.entry.isSome = alloc at hfull ⊢
  cases pop <;> cases alloc <;> simp only [Bool.false_eq_true, if_false, if_true, false_and, true_and,
    forall_true_left, not_false_eq_true, and_true, or_false] at hpop hfull ⊢ <;> bv_omega

theorem Advance.tail_occupied {e : RobEntry} (he : st.entry = some e) : n.robOccupied b.robTail = true :=
  (hA.robOccupied_iff hst _).mpr (.inr ⟨⟨e, he⟩, rfl⟩)

/-- A pop lowers the age of every occupied slot by one; nothing else changes one. -/
theorem Advance.robAge_eq {i : Slot} (hi : n.robOccupied i = true) :
    n.robAge i + pop.toNat = b.robAge i := by
  have hne : pop = true → i ≠ b.robHead := by
    rintro hp rfl
    rcases (hA.robOccupied_iff hst _).mp hi with ⟨-, h⟩ | ⟨-, h⟩
    · exact h ⟨hp, rfl⟩
    · have he := ((commits_iff b).mp (hA.popOk hp).1).1
      simp [Bank.robEmpty, h] at he
  unfold Bank.robAge
  rw [hA.robHead]
  cases pop
  · simp
  · have := hne rfl
    simp only [if_true, Bool.toNat_true]
    bv_omega

/-- A cycle keeps the order of the occupied slots. -/
theorem Advance.robAge_lt {i j : Slot} (hi : n.robOccupied i = true) (hj : n.robOccupied j = true) :
    n.robAge i < n.robAge j ↔ b.robAge i < b.robAge j := by
  have h1 := hA.robAge_eq hst hi
  have h2 := hA.robAge_eq hst hj
  omega

/-- A slot that is not ready outlives the cycle. -/
theorem Advance.keeps {i : Slot} (hi : b.robOccupied i = true) (hr : (slotGet b.rob i).ready = false) :
    n.robOccupied i = true := by
  refine (hA.robOccupied_iff hst i).mpr (.inl ⟨hi, ?_⟩)
  rintro ⟨hp, rfl⟩
  have hc := ((commits_iff b).mp (hA.popOk hp).1).2
  exact absurd (hr.symm.trans hc) (by decide)

omit hst in
/-- An occupied slot keeps its kind and destination. -/
theorem Advance.occupied_slot {i : Slot} (hi : b.robOccupied i = true) :
    (slotGet n.rob i).kind = (slotGet b.rob i).kind ∧ (slotGet n.rob i).dest = (slotGet b.rob i).dest :=
  hA.slot fun _ h => not_robOccupied_tail b (h ▸ hi)

/-- A wait that is not over in this cycle is a wait after it (R311). -/
theorem Advance.waitOk {q t : Slot} (hw : b.waitOk q t) (hr : (slotGet b.rob q).ready = false)
    (ht : n.robOccupied t = true) : n.waitOk q t := by
  obtain ⟨hq, hk, hlt⟩ := hw
  have hq' := hA.keeps hst hq hr
  exact ⟨hq', (hA.occupied_slot hq).1.trans hk, (hA.robAge_lt hst hq' ht).mpr hlt⟩

/-- The instruction dispatched may wait for any pending slot. -/
theorem Advance.waitOk_tail {q : Slot} {e : RobEntry} (hq : b.Pending q) (he : st.entry = some e) :
    n.waitOk q b.robTail :=
  hA.waitOk hst ⟨hq.occupied, hq.kind, (robOccupied_iff_age b q).mp hq.occupied⟩ hq.notReady
    (hA.tail_occupied hst he)

end

/-! ### Renames (R347) -/

/-- The head that a commit retires is the producer `dep` names. -/
theorem retires_of_head {b : Bank} {i : Reg} (hp : b.produces (slotGet b.reg i).dep i)
    (hd : (slotGet b.reg i).dep = b.robHead) : b.retires i := by
  obtain ⟨-, hk, hdest⟩ := hp
  rw [hd] at hk hdest
  exact ⟨hk, by rw [Bank.robHeadEntry, hdest, setWidth_dest], hd⟩

section
variable {c : Config} {b n : Bank} {st : Staging} {pop : Bool} (hst : StagingOk c b st) (hA : Advance c b st pop n)
include hst hA

omit hst in
theorem Advance.zeroOk (hz : ZeroOk b) : ZeroOk n := by
  show (slotGet n.reg 0#5).value = 0#32 ∧ (slotGet n.reg 0#5).dirty = false
  rwa [hA.regZero]

/-- The producers of a register after a cycle: those before it but the popped head, and the entry allocated for it. -/
theorem Advance.produces_iff (t : Slot) (i : Reg) :
    n.produces t i ↔ (b.produces t i ∧ ¬(pop = true ∧ t = b.robHead)) ∨ (st.names i ∧ t = b.robTail) := by
  constructor
  · rintro ⟨ho, hk, hd⟩
    rcases (hA.robOccupied_iff hst t).mp ho with ⟨hb, hp⟩ | ⟨⟨e, he⟩, rfl⟩
    · obtain ⟨hk', hd'⟩ := hA.occupied_slot hb
      exact .inl ⟨⟨hb, hk' ▸ hk, hd' ▸ hd⟩, hp⟩
    · obtain ⟨hk', hd'⟩ := hA.entry he
      exact .inr ⟨⟨e, he, hk' ▸ hk, hd' ▸ hd⟩, rfl⟩
  · rintro (⟨⟨hb, hk, hd⟩, hp⟩ | ⟨⟨e, he, hk, hd⟩, rfl⟩)
    · obtain ⟨hk', hd'⟩ := hA.occupied_slot hb
      exact ⟨(hA.robOccupied_iff hst t).mpr (.inl ⟨hb, hp⟩), hk'.trans hk, hd'.trans hd⟩
    · obtain ⟨hk', hd'⟩ := hA.entry he
      exact ⟨hA.tail_occupied hst he, hk'.trans hk, hd'.trans hd⟩

omit hst in
theorem Advance.dirty_ne_zero (hz : ZeroOk b) {i : Reg} (hd : (slotGet n.reg i).dirty = true) : i ≠ 0#5 := by
  rintro rfl
  rw [(hA.zeroOk hz).2] at hd
  cases hd

/-- A register dirty after a cycle has its producer: the one staged, or the old one, which is not the head popped. -/
theorem Advance.dirty_produces (hz : ZeroOk b) (hr : RatOk b) {i : Reg} (hd : (slotGet n.reg i).dirty = true) :
    n.produces (slotGet n.reg i).dep i := by
  have hi := hA.dirty_ne_zero hz hd
  rw [hA.produces_iff hst]
  by_cases hn : st.names i
  · exact .inr ⟨hn, (hA.regNamed i hi hn).2⟩
  · obtain ⟨hdep, hdirty⟩ := hA.regKept i hi hn
    obtain ⟨hb, hret⟩ := hdirty.mp hd
    have hp := hr.dirtyHasProducer i hb
    rw [hdep]
    exact .inl ⟨hp, fun ⟨hpop, hh⟩ => hret ⟨hpop, retires_of_head hp hh⟩⟩

theorem Advance.ratOk (hz : ZeroOk b) (hr : RatOk b) : RatOk n := by
  constructor
  case dirtyHasProducer => exact fun i => hA.dirty_produces hst hz hr
  case producerMakesDirty =>
    intro i t hi ht
    by_cases hn : st.names i
    · exact (hA.regNamed i hi hn).1
    · obtain ⟨hb, hp⟩ := ((hA.produces_iff hst t i).mp ht).resolve_right fun h => hn h.1
      have hdirty := hr.producerMakesDirty i t hi hb
      refine (hA.regKept i hi hn).2.mpr ⟨hdirty, fun ⟨hpop, hret⟩ => hp ⟨hpop, ?_⟩⟩
      have hle := hr.depIsYoungest i t hdirty hb
      rw [hret.2.2, robAge_eq_zero.mpr rfl] at hle
      exact robAge_eq_zero.mp (Nat.le_zero.mp hle)
  case depIsYoungest =>
    intro i t hd ht
    have hi := hA.dirty_ne_zero hz hd
    rw [← not_lt, hA.robAge_lt hst (hA.dirty_produces hst hz hr hd).1 ht.1, not_lt]
    by_cases hn : st.names i
    · rw [(hA.regNamed i hi hn).2]
      rcases (hA.produces_iff hst t i).mp ht with ⟨hb, -⟩ | ⟨-, rfl⟩
      · exact ((robOccupied_iff_age b t).mp hb.1).le
      · exact le_rfl
    · obtain ⟨hb, -⟩ := ((hA.produces_iff hst t i).mp ht).resolve_right fun h => hn h.1
      obtain ⟨hdep, hdirty⟩ := hA.regKept i hi hn
      rw [hdep]
      exact hr.depIsYoungest i t (hdirty.mp hd).1 hb

end

/-! ### The load/store-queue ring -/

theorem lsqNext_cases {c : Config} {i : Nat} (h : i < c.lsqSize) :
    (i + 1 = c.lsqSize ∧ lsqNext c i = 0) ∨ (i + 1 < c.lsqSize ∧ lsqNext c i = i + 1) := by
  unfold lsqNext
  rcases Nat.lt_or_ge (i + 1) c.lsqSize with hlt | hge
  · exact .inr ⟨hlt, Nat.mod_eq_of_lt hlt⟩
  · have he : i + 1 = c.lsqSize := by omega
    exact .inl ⟨he, by rw [he, Nat.mod_self]⟩

theorem lsqNext_lt {c : Config} {i : Nat} (h : i < c.lsqSize) : lsqNext c i < c.lsqSize :=
  Nat.mod_lt _ (by omega)

theorem lsqAge_cases {c : Config} {b : Bank} {i : Nat} (hh : b.lsqHead < c.lsqSize) (h : i < c.lsqSize) :
    (b.lsqHead ≤ i ∧ b.lsqAge c i = i - b.lsqHead)
      ∨ (i < b.lsqHead ∧ b.lsqAge c i = i + c.lsqSize - b.lsqHead) := by
  unfold Bank.lsqAge
  rcases Nat.lt_or_ge i b.lsqHead with hlt | hge
  · exact .inr ⟨hlt, Nat.mod_eq_of_lt (by omega)⟩
  · refine .inl ⟨hge, ?_⟩
    rw [show i + c.lsqSize - b.lsqHead = i - b.lsqHead + c.lsqSize by omega, Nat.add_mod_right,
      Nat.mod_eq_of_lt (by omega)]

theorem lsqAge_head {c : Config} {b : Bank} (hh : b.lsqHead < c.lsqSize) : b.lsqAge c b.lsqHead = 0 := by
  have := lsqAge_cases hh hh
  omega

theorem lsqAge_inj {c : Config} {b : Bank} {i j : Nat} (hh : b.lsqHead < c.lsqSize) (hi : i < c.lsqSize)
    (hj : j < c.lsqSize) : b.lsqAge c i = b.lsqAge c j ↔ i = j := by
  have := lsqAge_cases hh hi
  have := lsqAge_cases hh hj
  omega

theorem lsqAge_lt {c : Config} {i : Nat} (b : Bank) (h : i < c.lsqSize) : b.lsqAge c i < c.lsqSize :=
  Nat.mod_lt _ (by omega)

/-- The next slot of the ring is one older, unless the slot is the ring's last. -/
theorem lsqAge_next {c : Config} {b : Bank} {i : Nat} (hh : b.lsqHead < c.lsqSize) (hi : i < c.lsqSize)
    (hlt : b.lsqAge c i + 1 < c.lsqSize) : b.lsqAge c (lsqNext c i) = b.lsqAge c i + 1 := by
  have := lsqNext_cases hi
  have := lsqAge_cases hh hi
  have := lsqAge_cases hh (lsqNext_lt hi)
  omega

/-- A slot that the head does not follow is not the ring's last. -/
theorem lsqAge_lt_of_next_ne {c : Config} {b : Bank} {i : Nat} (hh : b.lsqHead < c.lsqSize) (hi : i < c.lsqSize)
    (hne : lsqNext c i ≠ b.lsqHead) : b.lsqAge c i + 1 < c.lsqSize := by
  have := lsqNext_cases hi
  have := lsqAge_cases hh hi
  omega

/-- Moving the head by one makes every slot one younger, and the old head the last slot of the ring. -/
theorem lsqAge_pop {c : Config} {b n : Bank} {i : Nat} (hh : b.lsqHead < c.lsqSize)
    (hn : n.lsqHead = lsqNext c b.lsqHead) (hi : i < c.lsqSize) :
    n.lsqAge c i + 1 = if i = b.lsqHead then c.lsqSize else b.lsqAge c i := by
  have := lsqNext_cases hh
  have := lsqAge_cases hh hi
  have := lsqAge_cases (hn ▸ lsqNext_lt hh) hi
  split <;> omega

theorem lsqOccupied_iff_age {c : Config} {b : Bank} {i : Nat} (h : i < c.lsqSize) :
    b.lsqOccupied c i = true ↔ b.lsqAge c i < b.lsqAge c b.lsqTail := by
  rw [Bank.lsqOccupied, Bool.and_eq_true, decide_eq_true_iff, decide_eq_true_iff, Bank.lsqCountOcc, and_iff_right h]

theorem not_lsqOccupied_tail (c : Config) (b : Bank) : ¬b.lsqOccupied c b.lsqTail = true := by
  simp [Bank.lsqOccupied, Bank.lsqCountOcc]

theorem lsqHead_occupied {c : Config} {b : Bank} (hs : Shaped c b) (h : b.lsqEmpty = false) :
    b.lsqOccupied c b.lsqHead = true := by
  have hne : b.lsqHead ≠ b.lsqTail := by simpa [Bank.lsqEmpty] using h
  have := lsqAge_inj hs.lsqHeadIn hs.lsqHeadIn hs.lsqTailIn
  have := lsqAge_head hs.lsqHeadIn
  rw [lsqOccupied_iff_age hs.lsqHeadIn]
  omega

/-- A staged entry for the queue. -/
def Staging.queues (st : Staging) : Prop := ∃ e q, st = .queue e q

section
variable {c : Config} {b n : Bank} {st : Staging} {pop : Bool} (hst : StagingOk c b st) (hA : Advance c b st pop n)
  (hs : Shaped c b) (hp : b.performs = true → b.lsqHead ≠ b.lsqTail)
include hst hA hs

omit hst in
theorem Advance.shaped : Shaped c n := by
  refine ⟨?_, hA.lsqLength.trans hs.lsqLength, ?_, ?_⟩
  · rw [hA.rs, List.length_mapIdx, Staging.length_rs, hs.rsLength]
  · rw [hA.lsqHead]
    split
    · exact lsqNext_lt hs.lsqHeadIn
    · exact hs.lsqHeadIn
  · rw [hA.lsqTail]
    cases st with
    | queue e q => exact lsqNext_lt hs.lsqTailIn
    | nothing | alone e | station e k r => exact hs.lsqTailIn

omit hs in
theorem Advance.lsqTail_cases :
    (st.queues ∧ n.lsqTail = lsqNext c b.lsqTail ∧ lsqNext c b.lsqTail ≠ b.lsqHead)
      ∨ (¬st.queues ∧ n.lsqTail = b.lsqTail) := by
  rw [hA.lsqTail]
  cases st with
  | queue e q => exact .inl ⟨⟨e, q, rfl⟩, rfl, by simpa [Bank.lsqFull] using (hst.queue e q rfl).room⟩
  | nothing | alone e | station e k r => exact .inr ⟨by simp [Staging.queues], rfl⟩

omit hst in
/-- An access makes every slot but the performed head one younger. -/
theorem Advance.lsqAge_eq {i : Nat} (hi : i < c.lsqSize) (hne : b.performs = true → i ≠ b.lsqHead) :
    n.lsqAge c i + b.performs.toNat = b.lsqAge c i := by
  have hhead := hA.lsqHead
  cases hperf : b.performs with
  | true =>
    rw [hperf, if_pos rfl] at hhead
    have := lsqAge_pop hs.lsqHeadIn hhead hi
    rwa [if_neg (hne hperf)] at this
  | false =>
    rw [hperf, if_neg Bool.false_ne_true] at hhead
    simp [Bank.lsqAge, hhead]

include hp

/-- The age at which the queue's occupied slots end. -/
theorem Advance.lsqAge_tail :
    (st.queues ∧ n.lsqAge c n.lsqTail + b.performs.toNat = b.lsqAge c b.lsqTail + 1)
      ∨ (¬st.queues ∧ n.lsqAge c n.lsqTail + b.performs.toNat = b.lsqAge c b.lsqTail) := by
  rcases hA.lsqTail_cases hst with ⟨hq, htl, hfull⟩ | ⟨hq, htl⟩
  · have hlast := lsqAge_lt_of_next_ne hs.lsqHeadIn hs.lsqTailIn hfull
    refine .inl ⟨hq, ?_⟩
    rw [htl, hA.lsqAge_eq hs (lsqNext_lt hs.lsqTailIn) fun _ => hfull, lsqAge_next hs.lsqHeadIn hs.lsqTailIn hlast]
  · refine .inr ⟨hq, ?_⟩
    rw [htl, hA.lsqAge_eq hs hs.lsqTailIn fun h => (hp h).symm]

/-- The occupied queue slots after a cycle: those before it but a performed head, and the tail where an entry is
pushed. -/
theorem Advance.lsqOccupied_iff {i : Nat} (hi : i < c.lsqSize) :
    n.lsqOccupied c i = true ↔
      (b.lsqOccupied c i = true ∧ ¬(b.performs = true ∧ i = b.lsqHead)) ∨ (st.queues ∧ i = b.lsqTail) := by
  have htail := hA.lsqAge_tail hst hs hp
  have hinj := lsqAge_inj hs.lsqHeadIn hi hs.lsqTailIn
  rw [lsqOccupied_iff_age hi, lsqOccupied_iff_age hi]
  by_cases hd : b.performs = true ∧ i = b.lsqHead
  · obtain ⟨hperf, rfl⟩ := hd
    have hne := hp hperf
    have hage := lsqAge_pop hs.lsqHeadIn (hA.lsqHead.trans (if_pos hperf)) hi
    have := lsqAge_lt n (hA.shaped hs).lsqTailIn
    rw [if_pos rfl] at hage
    simp only [hperf, hne, and_true, and_false, not_true_eq_false, or_false, iff_false]
    omega
  · have hage := hA.lsqAge_eq hs hi fun h he => hd ⟨h, he⟩
    simp only [hd, not_false_eq_true, and_true]
    rcases htail with ⟨hq, htail⟩ | ⟨hq, htail⟩ <;> simp only [hq, true_and, false_and, or_false] <;> omega

/-- A cycle keeps the order of the occupied queue slots. -/
theorem Advance.lsqAge_lt {i j : Nat} (hi : i < c.lsqSize) (hj : j < c.lsqSize) (ho : n.lsqOccupied c i = true)
    (ho' : n.lsqOccupied c j = true) : n.lsqAge c i < n.lsqAge c j ↔ b.lsqAge c i < b.lsqAge c j := by
  have hne {k : Nat} (hk : k < c.lsqSize) (hok : n.lsqOccupied c k = true) (hperf : b.performs = true) :
      k ≠ b.lsqHead := by
    rintro rfl
    rcases (hA.lsqOccupied_iff hst hs hp hk).mp hok with ⟨-, h⟩ | ⟨-, h⟩
    · exact h ⟨hperf, rfl⟩
    · exact hp hperf h
  have := hA.lsqAge_eq hs hi (hne hi ho)
  have := hA.lsqAge_eq hs hj (hne hj ho')
  omega

end

/-! ### Who finishes a slot -/

theorem mem_units {a : FuArray} {f : Fu} : f ∈ a.units ↔ ∃ c u, a.unit c u = f := by
  constructor
  · intro h
    simp only [FuArray.units, List.mem_cons, List.not_mem_nil, or_false] at h
    rcases h with h | h | h | h | h | h | h | h
    · exact ⟨.add, .u0, h.symm⟩
    · exact ⟨.add, .u1, h.symm⟩
    · exact ⟨.shift, .u0, h.symm⟩
    · exact ⟨.shift, .u1, h.symm⟩
    · exact ⟨.setCmp, .u0, h.symm⟩
    · exact ⟨.setCmp, .u1, h.symm⟩
    · exact ⟨.logic, .u0, h.symm⟩
    · exact ⟨.logic, .u1, h.symm⟩
  · rintro ⟨c, u, rfl⟩
    cases c <;> cases u <;> simp [FuArray.units, FuArray.unit, FuArray.pair, FuPair.unit]

theorem mem_rs {b : Bank} {e : RsEntry} : e ∈ b.rs ↔ ∃ k < b.rs.length, b.rsAt k = e := by
  rw [List.mem_iff_getElem]
  exact exists_congr fun k => ⟨fun ⟨h, he⟩ => ⟨h, by simpa [Bank.rsAt, h] using he⟩,
    fun ⟨h, he⟩ => ⟨h, by simpa [Bank.rsAt, h] using he⟩⟩

theorem rsAt_mem {b : Bank} {k : Nat} (h : k < b.rs.length) : b.rsAt k ∈ b.rs := mem_rs.mpr ⟨k, h, rfl⟩

/-- A unit, a store or a load makes slot `i` ready in this cycle (R313). -/
def Bank.finishes (c : Config) (b : Bank) (i : Slot) : Prop :=
  b.unitFinishes i ∨ b.storeFinishes c i ∨ b.loadFinishes i

section
variable {c : Config} {b : Bank} (hI : BankInv c b)
include hI

/-- A unit finishes only the slot of an issued entry. -/
theorem unitFinishes_entry {i : Slot} (h : b.unitFinishes i) :
    ∃ k < b.rs.length, (b.rsAt k).empty = false ∧ (b.rsAt k).issued = true ∧ (b.rsAt k).rob = i := by
  obtain ⟨f, hf, hfin, rfl⟩ := h
  obtain ⟨cl, u, rfl⟩ := mem_units.mp hf
  obtain ⟨e, he, hempty, hissued, hrob, -⟩ :=
    hI.units.unitHasEntry cl u ((hI.units.busyIffFinished _ hf).trans hfin)
  obtain ⟨k, hk, rfl⟩ := mem_rs.mp he
  exact ⟨k, hk, hempty, hissued, hrob⟩

/-- The entry whose slot a unit finishes is harvested (R196). -/
theorem harvested_of_unitFinishes {k : Nat} (hk : k < b.rs.length) (he : (b.rsAt k).empty = false)
    (h : b.unitFinishes (b.rsAt k).rob) : (b.rsAt k).harvested b.fu = true := by
  obtain ⟨j, hj, hje, hji, hjr⟩ := unitFinishes_entry hI h
  obtain rfl := hI.station.slotsDistinct j k hj hk hje he hjr
  obtain ⟨f, hf, hfin, hidx⟩ := h
  simp only [RsEntry.harvested, he, hji, Bool.not_false, Bool.true_and, List.any_eq_true, Bool.and_eq_true, beq_iff_eq]
  exact ⟨f, hf, hfin, hidx⟩

/-- An issued entry is harvested (R33: it holds a unit with a finished operation). -/
theorem harvested_of_issued {k : Nat} (hk : k < b.rs.length) (he : (b.rsAt k).empty = false)
    (hi : (b.rsAt k).issued = true) : (b.rsAt k).harvested b.fu = true := by
  obtain ⟨f, hf, hbusy, hidx⟩ := hI.units.entryHasUnit _ (rsAt_mem hk) he hi
  exact harvested_of_unitFinishes hI hk he ⟨f, hf, (hI.units.busyIffFinished f hf).symm.trans hbusy, hidx⟩

omit hI in
/-- A harvested entry's slot is finished by a unit (R196). -/
theorem unitFinishes_of_harvested {e : RsEntry} (h : e.harvested b.fu = true) : b.unitFinishes e.rob := by
  simp only [RsEntry.harvested, Bool.and_eq_true, List.any_eq_true, beq_iff_eq] at h
  obtain ⟨-, f, hf, hfin, hidx⟩ := h
  exact ⟨f, hf, hfin, hidx⟩

/-- A reporting store names the MemoryWrite entry it reports to (R277). -/
theorem storeFinishes_store {i : Slot} (h : b.storeFinishes c i) :
    ∃ j < c.lsqSize, b.lsqOccupied c j = true ∧ (b.lsqAt j).rob = i ∧ (b.lsqAt j).basec = false
      ∧ (b.lsqAt j).valuec = false ∧ b.robOccupied i = true ∧ (slotGet b.rob i).kind = .memoryWrite
      ∧ (slotGet b.rob i).dest = BitVec.ofNat 32 j := by
  obtain ⟨j, hj, hrep, rfl⟩ := h
  simp only [LsqEntry.reports, Bool.and_eq_true, Bool.not_eq_true'] at hrep
  obtain ⟨ho, ⟨⟨hs, hb⟩, hv⟩, hr⟩ := hrep
  obtain ⟨hocc, hkind, hdest, -⟩ := (hI.queue.slots j hj ho).pendingStore hs hr
  exact ⟨j, hj, ho, rfl, hb, hv, hocc, hkind, hdest⟩

/-- The access in flight is for an occupied, ready head (R36). -/
theorem performs_head (h : b.performs = true) :
    b.lsqOccupied c b.lsqHead = true ∧ (b.lsqAt b.lsqHead).ready = true ∧ b.lsqHead ≠ b.lsqTail := by
  simp only [Bank.performs, Bool.and_eq_true] at h
  obtain ⟨he, hr⟩ := hI.queue.inflightReady h.1
  exact ⟨lsqHead_occupied hI.shaped he, hr, by simpa [Bank.lsqEmpty] using he⟩

theorem performs_ne (h : b.performs = true) : b.lsqHead ≠ b.lsqTail := (performs_head hI h).2.2

/-- A load delivers to the RegisterWrite entry it was dispatched with (R280). -/
theorem loadFinishes_load {i : Slot} (h : b.loadFinishes i) :
    b.performs = true ∧ b.lsqOccupied c b.lsqHead = true ∧ (b.lsqAt b.lsqHead).type.isLoad = true
      ∧ (b.lsqAt b.lsqHead).rob = i ∧ b.robOccupied i = true ∧ (slotGet b.rob i).kind = .registerWrite := by
  obtain ⟨hp, hl, rfl⟩ := h
  have ho := (performs_head hI hp).1
  obtain ⟨hocc, -, hkind, -⟩ := (hI.queue.slots _ hI.shaped.lsqHeadIn ho).load hl
  exact ⟨hp, ho, hl, rfl, hocc, hkind⟩

/-- Only occupied slots are finished. -/
theorem finishes_occupied {i : Slot} (h : b.finishes c i) : b.robOccupied i = true := by
  rcases h with h | h | h
  · obtain ⟨k, hk, he, -, rfl⟩ := unitFinishes_entry hI h
    exact (hI.station.slotPending _ (rsAt_mem hk) he).1
  · obtain ⟨-, -, -, -, -, -, ho, -⟩ := storeFinishes_store hI h
    exact ho
  · obtain ⟨-, -, -, -, ho, -⟩ := loadFinishes_load hI h
    exact ho

/-- A unit finishes no MemoryWrite slot. -/
theorem unitFinishes_kind {i : Slot} (h : b.unitFinishes i) : (slotGet b.rob i).kind ≠ .memoryWrite := by
  obtain ⟨k, hk, he, -, rfl⟩ := unitFinishes_entry hI h
  rw [(hI.station.slotPending _ (rsAt_mem hk) he).2.2]
  split <;> nofun

end

section
variable {c : Config} {b n : Bank} {st : Staging} {pop : Bool} (hI : BankInv c b) (hst : StagingOk c b st)
  (hA : Advance c b st pop n)
include hA

/-- An occupied slot is ready after a cycle when it was or is finished in it (R313). -/
theorem Advance.ready_iff {i : Slot} (hi : b.robOccupied i = true) :
    (slotGet n.rob i).ready = true ↔ (slotGet b.rob i).ready = true ∨ b.finishes c i := by
  have hne : i ≠ b.robTail := fun h => not_robOccupied_tail b (h ▸ hi)
  obtain ⟨r, hq, hf⟩ := hA.rob
  have hr : slotGet (st.rob b.robTail r) i = slotGet r i := by
    unfold Staging.rob
    split
    · exact slotGet_slotSet_ne _ _ hne
    · rfl
  rw [hf.ready, hr, hq.ready, Bank.finishes]
  tauto

include hI

/-- The entry allocated is ready when it was at allocation. -/
theorem Advance.ready_tail {e : RobEntry} (he : st.entry = some e) : (slotGet n.rob b.robTail).ready = e.ready := by
  obtain ⟨r, -, hf⟩ := hA.rob
  have hno : ¬b.unitFinishes b.robTail := fun h => not_robOccupied_tail b (finishes_occupied hI (.inl h))
  have := hf.ready b.robTail
  rw [Bool.eq_iff_iff, this]
  simp [Staging.rob, he, hno]

omit hI in
include hst in
/-- A slot that is neither ready nor finished is pending after the cycle. -/
theorem Advance.stays_pending {i : Slot} (hi : b.robOccupied i = true) (hr : (slotGet b.rob i).ready = false)
    (hf : ¬b.finishes c i) : n.robOccupied i = true ∧ (slotGet n.rob i).ready = false := by
  refine ⟨hA.keeps hst hi hr, ?_⟩
  rw [← Bool.not_eq_true, hA.ready_iff hi]
  simp [hr, hf]

end

/-! ### The reservation station -/

/-- Station slot `k` after the dispatch. -/
def Staging.rsAt (st : Staging) (b : Bank) (k : Nat) : RsEntry :=
  match st with
  | .station _ j r => if k = j then r else b.rsAt k
  | .nothing | .alone _ | .queue .. => b.rsAt k

/-- `n` is the live entry `e` after a cycle that does not harvest it: its fields but the operands, `busy` and `issued`
stand, and an operand still waits exactly when its producer is not ready in `b` (R197, R198). -/
structure Survives (b : Bank) (granted : Bool) (e n : RsEntry) : Prop where
  empty : n.empty = e.empty
  op : n.op = e.op
  rob : n.rob = e.rob
  busy : n.busy = (n.q1c || n.q2c)
  issued : n.issued = (e.issued || granted)
  wait1 : n.q1c = true → e.q1c = true ∧ n.q1 = e.q1 ∧ (slotGet b.rob e.q1).ready = false
  wait2 : n.q2c = true → e.q2c = true ∧ n.q2 = e.q2 ∧ (slotGet b.rob e.q2).ready = false

theorem wakeRs_survives (b : Bank) (e : RsEntry) : Survives b false e (wakeRs b.rob e e) := by
  unfold wakeRs
  cases h1 : e.q1c && (slotGet b.rob e.q1).ready <;> cases h2 : e.q2c && (slotGet b.rob e.q2).ready <;>
    constructor <;> simp_all

theorem rsSlotStep_survives {b : Bank} {g : Bool} {e : RsEntry} (he : e.empty = false)
    (hh : e.harvested b.fu = false) : Survives b g e (rsSlotStep b g e e) := by
  have hw := wakeRs_survives b e
  simp only [rsSlotStep, he, hh, Bool.false_eq_true, if_false]
  cases g
  · exact hw
  · exact { hw with issued := (Bool.or_true _).symm }

section
variable {c : Config} {b n : Bank} {st : Staging} {pop : Bool} (hst : StagingOk c b st) (hA : Advance c b st pop n)
include hA

theorem Advance.rsLength : n.rs.length = b.rs.length := by
  rw [hA.rs, List.length_mapIdx, Staging.length_rs]

theorem Advance.rsAt {k : Nat} (hk : k < b.rs.length) :
    n.rsAt k = rsSlotStep b (b.grant k).isSome (b.rsAt k) (st.rsAt b k) := by
  have hl : k < (st.rs b.rs).length := by rwa [Staging.length_rs]
  have hst : (st.rs b.rs).getD k RsEntry.reset = st.rsAt b k := by
    cases st with
    | station e j r => exact getD_set _ _ _ hk
    | nothing | alone e | queue e q => rfl
  rw [← hst]
  simp [Bank.rsAt, hA.rs, hl]

include hst

theorem Advance.rs_pushed {e : RobEntry} {k : Nat} {r : RsEntry} (hp : st = .station e k r) : n.rsAt k = r := by
  have hpush := hst.station e k r hp
  rw [hA.rsAt hpush.inRange, rsSlotStep, hpush.free, if_pos rfl, hp]
  exact if_pos rfl

/-- What a cycle makes of a station slot (R195): it is pushed into, left empty, freed by a harvest, or keeps its
entry. -/
theorem Advance.rs_cases {k : Nat} (hk : k < b.rs.length) :
    (∃ e, st = .station e k (n.rsAt k))
      ∨ ((b.rsAt k).empty = true ∧ n.rsAt k = b.rsAt k)
      ∨ ((b.rsAt k).empty = false ∧ (b.rsAt k).harvested b.fu = true ∧ n.rsAt k = { b.rsAt k with empty := true })
      ∨ ((b.rsAt k).empty = false ∧ (b.rsAt k).harvested b.fu = false
        ∧ Survives b (b.grant k).isSome (b.rsAt k) (n.rsAt k)) := by
  have hat := hA.rsAt hk
  by_cases hpush : ∃ e r, st = .station e k r
  · obtain ⟨e, r, hpush⟩ := hpush
    exact .inl ⟨e, by rw [hA.rs_pushed hst hpush, hpush]⟩
  · have hsame : st.rsAt b k = b.rsAt k := by
      cases st with
      | station e j r => exact if_neg fun h => hpush ⟨e, r, by rw [h]⟩
      | nothing | alone e | queue e q => rfl
    rw [hsame] at hat
    rw [hat]
    cases he : (b.rsAt k).empty with
    | true => exact .inr (.inl ⟨rfl, by simp [rsSlotStep, he]⟩)
    | false =>
      cases hh : (b.rsAt k).harvested b.fu with
      | true => exact .inr (.inr (.inl ⟨rfl, rfl, by simp [rsSlotStep, he, hh]⟩))
      | false => exact .inr (.inr (.inr ⟨rfl, rfl, rsSlotStep_survives he hh⟩))

/-- A live entry after a cycle was pushed in it or survived it. -/
theorem Advance.live_cases {k : Nat} (hk : k < b.rs.length) (hlive : (n.rsAt k).empty = false) :
    (∃ e, st = .station e k (n.rsAt k))
      ∨ ((b.rsAt k).empty = false ∧ (b.rsAt k).harvested b.fu = false
        ∧ Survives b (b.grant k).isSome (b.rsAt k) (n.rsAt k)) := by
  rcases hA.rs_cases hst hk with hp | ⟨he, hn⟩ | ⟨-, -, hn⟩ | hs
  · exact .inl hp
  · rw [hn, he] at hlive
    cases hlive
  · rw [hn] at hlive
    cases hlive
  · exact .inr hs

end

section
variable {c : Config} {b n : Bank} {st : Staging} {pop : Bool} (hI : BankInv c b) (hst : StagingOk c b st)
  (hA : Advance c b st pop n)
include hI

/-- The slot of an entry that is not harvested is finished by nobody: a store's slot is of another kind, a load's slot
is its own. -/
theorem not_finishes_of_not_harvested {k : Nat} (hk : k < b.rs.length) (he : (b.rsAt k).empty = false)
    (hh : (b.rsAt k).harvested b.fu = false) : ¬b.finishes c (b.rsAt k).rob := by
  have hp := hI.station.slotPending _ (rsAt_mem hk) he
  rintro (h | h | h)
  · rw [harvested_of_unitFinishes hI hk he h] at hh
    cases hh
  · obtain ⟨-, -, -, -, -, -, -, hkind, -⟩ := storeFinishes_store hI h
    rw [hp.2.2] at hkind
    split at hkind <;> cases hkind
  · obtain ⟨-, ho, hl, hr, -⟩ := loadFinishes_load hI h
    exact hI.queue.apartFromStation _ hI.shaped.lsqHeadIn ho hl _ (rsAt_mem hk) he hr.symm

include hst hA

/-- The RoB slot of a live entry after a cycle is occupied and pending. -/
theorem Advance.live_slot {k : Nat} (hk : k < b.rs.length) (hlive : (n.rsAt k).empty = false) :
    n.robOccupied (n.rsAt k).rob = true ∧ (slotGet n.rob (n.rsAt k).rob).ready = false
      ∧ (slotGet n.rob (n.rsAt k).rob).kind = if (n.rsAt k).op.isBranch then .branch else .registerWrite := by
  rcases hA.live_cases hst hk hlive with ⟨e, hpush⟩ | ⟨hne, hnh, hs⟩
  · have hp := hst.station _ _ _ hpush
    have he : st.entry = some e := by rw [hpush]; rfl
    rw [hp.rob, hA.ready_tail hI he, (hA.entry he).1]
    exact ⟨hA.tail_occupied hst he, hp.notReady, hp.kind⟩
  · obtain ⟨ho, hr, hkind⟩ := hI.station.slotPending _ (rsAt_mem hk) hne
    obtain ⟨ho', hr'⟩ := hA.stays_pending hst ho hr (not_finishes_of_not_harvested hI hk hne hnh)
    rw [hs.rob, hs.op, (hA.occupied_slot ho).1]
    exact ⟨ho', hr', hkind⟩

/-- Live entries have different RoB slots: the one pushed has the tail, the others had different slots before. -/
theorem Advance.live_distinct {k j : Nat} (hk : k < b.rs.length) (hj : j < b.rs.length)
    (hkl : (n.rsAt k).empty = false) (hjl : (n.rsAt j).empty = false) (hrob : (n.rsAt k).rob = (n.rsAt j).rob) :
    k = j := by
  have hold {i : Nat} (hi : i < b.rs.length) (hie : (b.rsAt i).empty = false) : (b.rsAt i).rob ≠ b.robTail :=
    fun h => not_robOccupied_tail b (h ▸ (hI.station.slotPending _ (rsAt_mem hi) hie).1)
  rcases hA.live_cases hst hk hkl with ⟨e, hpk⟩ | ⟨hke, -, hks⟩ <;>
    rcases hA.live_cases hst hj hjl with ⟨e', hpj⟩ | ⟨hje, -, hjs⟩
  · rw [hpk] at hpj
    injection hpj
  · rw [(hst.station _ _ _ hpk).rob, hjs.rob] at hrob
    exact absurd hrob.symm (hold hj hje)
  · rw [(hst.station _ _ _ hpj).rob, hks.rob] at hrob
    exact absurd hrob (hold hk hke)
  · rw [hks.rob, hjs.rob] at hrob
    exact hI.station.slotsDistinct k j hk hj hke hje hrob

/-- An operand of a live entry waits rightly: for a pending slot where the entry was pushed, as before and not yet
answered where it survived. -/
theorem Advance.live_wait {k : Nat} (hk : k < b.rs.length) (hlive : (n.rsAt k).empty = false) {q : Slot}
    (hpush : ∀ e, StationPush b e k (n.rsAt k) → b.Pending q)
    (hold : (b.rsAt k).empty = false → Survives b (b.grant k).isSome (b.rsAt k) (n.rsAt k) →
      b.waitOk q (b.rsAt k).rob ∧ (slotGet b.rob q).ready = false) : n.waitOk q (n.rsAt k).rob := by
  have ho := (hA.live_slot hI hst hk hlive).1
  rcases hA.live_cases hst hk hlive with ⟨e, he⟩ | ⟨hne, -, hs⟩
  · have hp := hst.station _ _ _ he
    rw [hp.rob]
    exact hA.waitOk_tail hst (hpush e hp) (by rw [he]; rfl)
  · obtain ⟨hw, hnr⟩ := hold hne hs
    rw [hs.rob] at ho ⊢
    exact hA.waitOk hst hw hnr ho

theorem Advance.stationOk : StationOk n := by
  have hmem {e : RsEntry} (he : e ∈ n.rs) : ∃ k < b.rs.length, n.rsAt k = e := hA.rsLength ▸ mem_rs.mp he
  constructor
  case busyIff =>
    intro e he
    obtain ⟨k, hk, rfl⟩ := hmem he
    have hb := hI.station.busyIff _ (rsAt_mem hk)
    rcases hA.rs_cases hst hk with ⟨entry, hp⟩ | ⟨-, hn⟩ | ⟨-, -, hn⟩ | ⟨-, -, hs⟩
    · exact (hst.station _ _ _ hp).busy
    · rw [hn]; exact hb
    · rw [hn]; exact hb
    · exact hs.busy
  case slotPending =>
    intro e he hlive
    obtain ⟨k, hk, rfl⟩ := hmem he
    exact hA.live_slot hI hst hk hlive
  case slotsDistinct =>
    intro k j hk hj
    exact hA.live_distinct hI hst (hA.rsLength ▸ hk) (hA.rsLength ▸ hj)
  case wait1 =>
    intro e he hlive hq
    obtain ⟨k, hk, rfl⟩ := hmem he
    refine hA.live_wait hI hst hk hlive (fun _ hp => hp.wait1 hq) fun hne hs => ?_
    obtain ⟨hq, hq1, hnr⟩ := hs.wait1 hq
    rw [hq1]
    exact ⟨hI.station.wait1 _ (rsAt_mem hk) hne hq, hnr⟩
  case wait2 =>
    intro e he hlive hq
    obtain ⟨k, hk, rfl⟩ := hmem he
    refine hA.live_wait hI hst hk hlive (fun _ hp => hp.wait2 hq) fun hne hs => ?_
    obtain ⟨hq, hq2, hnr⟩ := hs.wait2 hq
    rw [hq2]
    exact ⟨hI.station.wait2 _ (rsAt_mem hk) hne hq, hnr⟩

end

/-! ### The functional units -/

/-- A unit that accepts nothing keeps its value; one that does holds a granted entry's operation (R197). -/
theorem acceptAll_cases (a : FuArray) (es : List RsEntry) (gs : List (Option FuInst)) (c : FuClass) (u : FuInst) :
    (acceptAll a es gs).unit c u = a.unit c u
      ∨ ∃ (k : Nat) (e : RsEntry), es[k]? = some e ∧ gs[k]? = some (some u) ∧ opClass e.op = c
        ∧ (acceptAll a es gs).unit c u = acceptedFu e := by
  induction es generalizing a gs with
  | nil => exact .inl rfl
  | cons e es ih =>
    match gs with
    | [] => exact .inl rfl
    | none :: gs =>
      refine (ih a gs).imp_right ?_
      rintro ⟨k, e', he, hg, hc, hu⟩
      exact ⟨k + 1, e', he, hg, hc, hu⟩
    | some v :: gs =>
      rcases ih (a.put (opClass e.op) v (acceptedFu e)) gs with h | ⟨k, e', he, hg, hc, hu⟩
      · rw [FuArray.unit_put] at h
        split at h
        · next hcu =>
          obtain ⟨rfl, rfl⟩ := hcu
          exact .inr ⟨0, e, rfl, rfl, rfl, h⟩
        · exact .inl h
      · exact .inr ⟨k + 1, e', he, hg, hc, hu⟩

/-- A unit that is busy when the scan begins is granted to nobody (R197). -/
theorem acceptAll_of_busy {a fu : FuArray} {es : List RsEntry} {c : FuClass} {u : FuInst}
    (h : (a.unit c u).busy = true) : (acceptAll fu es (issueGrants a es)).unit c u = fu.unit c u := by
  induction es generalizing a fu with
  | nil => rfl
  | cons e es ih =>
    unfold issueGrants
    split
    · split
      · next v hv =>
        have hne : ¬(c = opClass e.op ∧ u = v) := by
          rintro ⟨rfl, rfl⟩
          unfold FuArray.available at hv
          split at hv
          · cases hv; simp_all
          · split at hv <;> cases hv
            simp_all
        rw [acceptAll, ih (by rw [FuArray.take, FuArray.unit_put, if_neg hne]; exact h), FuArray.unit_put, if_neg hne]
      · exact ih h
    · exact ih h

/-- A granted entry may be issued, and after the scan its unit holds its operation (R197). -/
theorem granted_accepts {a fu : FuArray} {es : List RsEntry} {k : Nat} {e : RsEntry} {u : FuInst}
    (he : es[k]? = some e) (hg : (issueGrants a es)[k]? = some (some u)) :
    e.issuable = true ∧ (acceptAll fu es (issueGrants a es)).unit (opClass e.op) u = acceptedFu e := by
  induction es generalizing a fu k with
  | nil => simp at he
  | cons e' es ih =>
    unfold issueGrants at hg ⊢
    split at hg
    · next hiss =>
      split at hg
      · next v hv =>
        simp only [hiss, if_true]
        match k with
        | 0 =>
          cases he
          cases hg
          refine ⟨hiss, ?_⟩
          rw [acceptAll, acceptAll_of_busy (by simp [FuArray.take, FuArray.unit_put]), FuArray.unit_put]
          simp
        | k + 1 => exact ih he hg
      · next hv =>
        simp only [hiss, if_true]
        match k with
        | 0 => cases hg
        | k + 1 => exact ih he hg
    · next hiss =>
      simp only [hiss, if_false, Bool.false_eq_true]
      match k with
      | 0 => cases hg
      | k + 1 => exact ih he hg

theorem harvestFu_unit (a n : FuArray) (c : FuClass) (u : FuInst) :
    (harvestFu a n).unit c u = idleIfFinished (a.unit c u) (n.unit c u) := by
  cases c <;> cases u <;> rfl

theorem grant_eq_some {b : Bank} {k : Nat} {u : FuInst} :
    b.grant k = some u ↔ (issueGrants b.fu b.rs)[k]? = some (some u) := by
  unfold Bank.grant List.getD
  cases (issueGrants b.fu b.rs)[k]? <;> simp

theorem rsAt_getElem? {b : Bank} {k : Nat} (hk : k < b.rs.length) : b.rs[k]? = some (b.rsAt k) := by
  simp [Bank.rsAt, hk]

section
variable {c : Config} {b n : Bank} {st : Staging} {pop : Bool} (hI : BankInv c b) (hst : StagingOk c b st)
  (hA : Advance c b st pop n)
include hA

theorem Advance.granted_unit {k : Nat} {u : FuInst} (hk : k < b.rs.length) (hg : b.grant k = some u) :
    (b.rsAt k).issuable = true ∧ n.fu.unit (opClass (b.rsAt k).op) u = acceptedFu (b.rsAt k) := by
  rw [hA.fu]
  exact granted_accepts (rsAt_getElem? hk) (grant_eq_some.mp hg)

include hst in
/-- A granted entry is issued, and stays. -/
theorem Advance.granted_entry {k : Nat} {u : FuInst} (hk : k < b.rs.length) (hg : b.grant k = some u) :
    (b.rsAt k).empty = false ∧ (n.rsAt k).empty = false ∧ (n.rsAt k).issued = true
      ∧ (n.rsAt k).rob = (b.rsAt k).rob ∧ (n.rsAt k).op = (b.rsAt k).op := by
  have hiss := (hA.granted_unit hk hg).1
  simp only [RsEntry.issuable, Bool.and_eq_true, Bool.not_eq_true'] at hiss
  obtain ⟨⟨he, -⟩, hni⟩ := hiss
  rcases hA.rs_cases hst hk with ⟨entry, hp⟩ | ⟨he', -⟩ | ⟨-, hh, -⟩ | ⟨-, -, hs⟩
  · exact absurd ((hst.station _ _ _ hp).free.symm.trans he) (by decide)
  · exact absurd (he'.symm.trans he) (by decide)
  · simp [RsEntry.harvested, hni] at hh
  · exact ⟨he, hs.empty.trans he, hs.issued.trans (by simp [hg]), hs.rob, hs.op⟩

include hI

/-- After a cycle a unit is idle, or holds the operation of the entry it was granted to: every other busy unit was
finished and is harvested (R196, R197). -/
theorem Advance.unit_cases (cl : FuClass) (u : FuInst) :
    ((n.fu.unit cl u).busy = false ∧ (n.fu.unit cl u).finished = false)
      ∨ ∃ k < b.rs.length, b.grant k = some u ∧ opClass (b.rsAt k).op = cl
        ∧ n.fu.unit cl u = acceptedFu (b.rsAt k) := by
  have hidle : (idleIfFinished (b.fu.unit cl u) (b.fu.unit cl u)).busy = false
      ∧ (idleIfFinished (b.fu.unit cl u) (b.fu.unit cl u)).finished = false := by
    have hbf := hI.units.busyIffFinished _ (mem_units.mpr ⟨cl, u, rfl⟩)
    unfold idleIfFinished
    split
    · exact ⟨rfl, rfl⟩
    · next hf => exact ⟨hbf.trans (by simpa using hf), by simpa using hf⟩
  rw [hA.fu]
  rcases acceptAll_cases (harvestFu b.fu b.fu) b.rs (issueGrants b.fu b.rs) cl u with h | ⟨k, e, he, hg, hc, hu⟩
  · rw [h, harvestFu_unit]
    exact .inl hidle
  · obtain ⟨hk, rfl⟩ := List.getElem?_eq_some_iff.mp he
    have hat : b.rs[k] = b.rsAt k := by simp [Bank.rsAt, hk]
    rw [hat] at hc hu
    exact .inr ⟨k, hk, grant_eq_some.mpr hg, hc, hu⟩

/-- A busy unit after a cycle belongs to a granted entry. -/
theorem Advance.busy_unit {cl : FuClass} {u : FuInst} (h : (n.fu.unit cl u).busy = true) :
    ∃ k < b.rs.length, b.grant k = some u ∧ opClass (b.rsAt k).op = cl
      ∧ (n.fu.unit cl u).index = (b.rsAt k).rob := by
  rcases hA.unit_cases hI cl u with ⟨hb, -⟩ | ⟨k, hk, hg, hc, hu⟩
  · exact absurd (hb.symm.trans h) (by decide)
  · exact ⟨k, hk, hg, hc, by rw [hu]; rfl⟩

include hst

theorem Advance.unitsOk : UnitsOk n := by
  constructor
  case busyIffFinished =>
    intro f hf
    obtain ⟨cl, u, rfl⟩ := mem_units.mp hf
    rcases hA.unit_cases hI cl u with ⟨hb, hfin⟩ | ⟨k, -, -, -, hu⟩
    · rw [hb, hfin]
    · rw [hu]; rfl
  case unitHasEntry =>
    intro cl u hb
    obtain ⟨k, hk, hg, hc, hidx⟩ := hA.busy_unit hI hb
    obtain ⟨-, he, hi, hr, hop⟩ := hA.granted_entry hst hk hg
    exact ⟨n.rsAt k, rsAt_mem (hA.rsLength.symm ▸ hk), he, hi, hr.trans hidx.symm,
      (congrArg opClass hop).trans hc⟩
  case entryHasUnit =>
    intro e he hlive hi
    obtain ⟨k, hk, rfl⟩ := mem_rs.mp he
    have hk := hA.rsLength ▸ hk
    rcases hA.live_cases hst hk hlive with ⟨entry, hp⟩ | ⟨hne, hnh, hs⟩
    · exact absurd ((hst.station _ _ _ hp).issued.symm.trans hi) (by decide)
    · have hold : (b.rsAt k).issued = false := by
        by_contra hold
        rw [harvested_of_issued hI hk hne (by simpa using hold)] at hnh
        cases hnh
      rw [hs.issued, hold, Bool.false_or, Option.isSome_iff_exists] at hi
      obtain ⟨u, hg⟩ := hi
      have hu := (hA.granted_unit hk hg).2
      exact ⟨_, mem_units.mpr ⟨_, _, rfl⟩, by rw [hu]; rfl, by rw [hu, hs.rob]; rfl⟩
  case indicesDistinct =>
    intro cl cl' u u' hb hb' hidx
    obtain ⟨k, hk, hg, hc, hr⟩ := hA.busy_unit hI hb
    obtain ⟨k', hk', hg', hc', hr'⟩ := hA.busy_unit hI hb'
    have hsame : k = k' := hI.station.slotsDistinct k k' hk hk' (hA.granted_entry hst hk hg).1
      (hA.granted_entry hst hk' hg').1 (hr.symm.trans (hidx.trans hr'))
    subst hsame
    exact ⟨hc.symm.trans hc', by injection hg.symm.trans hg'⟩

end

/-! ### The load/store queue -/

/-- `n` is the queue entry `e` after a cycle: its type and RoB slot stand, an operand still waits exactly when its
producer is not ready in `b`, and it becomes ready when a load's base wakes or (`auth`) a store is committed (R276,
R318). -/
structure Persists (b : Bank) (auth : Bool) (e n : LsqEntry) : Prop where
  type : n.type = e.type
  rob : n.rob = e.rob
  baseq : n.baseq = e.baseq
  valueq : n.valueq = e.valueq
  basec : n.basec = (e.basec && !(slotGet b.rob e.baseq).ready)
  valuec : n.valuec = (e.valuec && !(slotGet b.rob e.valueq).ready)
  ready : n.ready = (e.ready || (e.type.isLoad && e.basec && (slotGet b.rob e.baseq).ready) || auth)

theorem wakeLsq_persists (b : Bank) (auth : Bool) (e : LsqEntry) :
    Persists b auth e { wakeLsq b.rob e e with ready := (wakeLsq b.rob e e).ready || auth } := by
  unfold wakeLsq
  cases h1 : e.basec <;> cases h2 : (slotGet b.rob e.baseq).ready <;> cases h3 : e.valuec <;>
    cases h4 : (slotGet b.rob e.valueq).ready <;> constructor <;> simp [h1, h2, h3, h4, Bool.or_comm]

theorem LsqType.isStore_iff {t : LsqType} : t.isStore = true ↔ t.isLoad = false := by simp [LsqType.isStore]

theorem committedStore_iff {e : LsqEntry} : e.committedStore = true ↔ e.type.isStore = true ∧ e.ready = true := by
  simp [LsqEntry.committedStore]

theorem not_committedStore_iff {e : LsqEntry} :
    e.committedStore = false ↔ e.type.isLoad = true ∨ e.type.isStore = true ∧ e.ready = false := by
  unfold LsqEntry.committedStore LsqType.isStore
  cases e.type.isLoad <;> simp

/-- The entry pushed is no committed store. -/
theorem QueuePush.uncommitted {c : Config} {b : Bank} {e : RobEntry} {q : LsqEntry} (h : QueuePush c b e q) :
    q.committedStore = false := by
  by_contra hc
  obtain ⟨hs, hr⟩ := committedStore_iff.mp (by simpa using hc)
  exact absurd ((h.store hs).2.2.symm.trans hr) (by decide)

section
variable {c : Config} {b : Bank} (hI : BankInv c b)
include hI

/-- A queue index fits the 32-bit `dest` field (R31). -/
theorem slot_toNat {i : Nat} (hi : i < c.lsqSize) : (BitVec.ofNat 32 i).toNat = i := by
  rw [BitVec.toNat_ofNat]
  exact Nat.mod_eq_of_lt (Nat.lt_of_lt_of_le hi hI.valid.2.2)

/-- An entry that is no committed store has its instruction in the reorder buffer. -/
theorem uncommitted_occupied {i : Nat} (hi : i < c.lsqSize) (ho : b.lsqOccupied c i = true)
    (hu : (b.lsqAt i).committedStore = false) : b.robOccupied (b.lsqAt i).rob = true := by
  rcases not_committedStore_iff.mp hu with hl | ⟨hs, hr⟩
  · exact ((hI.queue.slots i hi ho).load hl).1
  · exact ((hI.queue.slots i hi ho).pendingStore hs hr).1

/-- Entries that are no committed stores have different RoB slots. -/
theorem uncommitted_distinct {i j : Nat} (hi : i < c.lsqSize) (hj : j < c.lsqSize) (hio : b.lsqOccupied c i = true)
    (hjo : b.lsqOccupied c j = true) (hiu : (b.lsqAt i).committedStore = false)
    (hju : (b.lsqAt j).committedStore = false) (hr : (b.lsqAt i).rob = (b.lsqAt j).rob) : i = j := by
  have hlt := hI.queue.programOrder i hi j hj hio hjo
  have hgt := hI.queue.programOrder j hj i hi hjo hio
  rw [hr] at hlt hgt
  rw [← lsqAge_inj hI.shaped.lsqHeadIn hi hj]
  by_contra hne
  rcases Nat.lt_or_gt_of_ne hne with h | h
  · exact Nat.lt_irrefl _ (hlt h hiu hju)
  · exact Nat.lt_irrefl _ (hgt h hju hiu)

/-- The store a commit authorises is the head's own, not yet committed, its operands known (R277, R318). -/
theorem authorised_store (hc : b.commits = true) {i : Nat} (ha : b.authorises i = true) :
    i < c.lsqSize ∧ b.lsqOccupied c i = true ∧ (b.lsqAt i).type.isStore = true ∧ (b.lsqAt i).ready = false
      ∧ (b.lsqAt i).rob = b.robHead ∧ (b.lsqAt i).basec = false ∧ (b.lsqAt i).valuec = false := by
  simp only [Bank.authorises, Bank.robHeadEntry, Bool.and_eq_true, beq_iff_eq] at ha
  obtain ⟨hk, rfl⟩ := ha
  obtain ⟨he, hready⟩ := (commits_iff b).mp hc
  obtain ⟨hi, ho, hs, hr, hrob⟩ := hI.queue.memoryWriteNamesStore _ (robHead_occupied he) hk
  obtain ⟨-, -, -, hres⟩ := (hI.queue.slots _ hi ho).pendingStore hs hr
  rw [hrob] at hres
  obtain ⟨hb, hv⟩ := hres hready
  exact ⟨hi, ho, hs, hr, hrob, hb, hv⟩

end

section
variable {c : Config} {b n : Bank} {st : Staging} {pop : Bool} (hI : BankInv c b) (hst : StagingOk c b st)
  (hA : Advance c b st pop n)
include hI hA

/-- A commit authorises only stores that were in the queue before the cycle. -/
theorem Advance.authorised {i : Nat} (ha : (pop && b.authorises i) = true) :
    pop = true ∧ i < c.lsqSize ∧ b.lsqOccupied c i = true ∧ (b.lsqAt i).type.isStore = true
      ∧ (b.lsqAt i).ready = false ∧ (b.lsqAt i).rob = b.robHead ∧ (b.lsqAt i).basec = false
      ∧ (b.lsqAt i).valuec = false := by
  rw [Bool.and_eq_true] at ha
  exact ⟨ha.1, authorised_store hI (hA.popOk ha.1).1 ha.2⟩

include hst

theorem Advance.lsqOccupied_cases {i : Nat} (hi : i < c.lsqSize) (ho : n.lsqOccupied c i = true) :
    (i = b.lsqTail ∧ ∃ e, st = .queue e (n.lsqAt i))
      ∨ (b.lsqOccupied c i = true ∧ ¬(b.performs = true ∧ i = b.lsqHead)
        ∧ Persists b (pop && b.authorises i) (b.lsqAt i) (n.lsqAt i)) := by
  have hat := hA.lsqAt i (hI.shaped.lsqLength.symm ▸ hi)
  rcases (hA.lsqOccupied_iff hst hI.shaped (performs_ne hI) hi).mp ho with
    ⟨hb, hp⟩ | ⟨⟨e, q, rfl⟩, rfl⟩
  · refine .inr ⟨hb, hp, ?_⟩
    have hne : i ≠ b.lsqTail := fun h => not_lsqOccupied_tail c b (h ▸ hb)
    have hw : st.lsqAt c b i = wakeLsq b.rob (b.lsqAt i) (b.lsqAt i) := by
      cases st <;> simp [Staging.lsqAt, Bank.woken, hb, hne]
    rw [hat, hw]
    exact wakeLsq_persists ..
  · have hna : (pop && b.authorises b.lsqTail) = false := by
      by_contra ha
      exact not_lsqOccupied_tail c b (hA.authorised hI (by simpa using ha)).2.2.1
    rw [hna] at hat
    exact .inl ⟨rfl, e, by simp [hat, Staging.lsqAt]⟩

/-- A slot whose entry is not ready keeps it: the head is performed only when it is ready. -/
theorem Advance.lsq_stays {i : Nat} (hi : i < c.lsqSize) (hb : b.lsqOccupied c i = true)
    (hr : b.performs = true → i ≠ b.lsqHead) :
    n.lsqOccupied c i = true ∧ Persists b (pop && b.authorises i) (b.lsqAt i) (n.lsqAt i) := by
  have ho := (hA.lsqOccupied_iff hst hI.shaped (performs_ne hI) hi).mpr
    (.inl ⟨hb, fun ⟨hp, hh⟩ => hr hp hh⟩)
  rcases hA.lsqOccupied_cases hI hst hi ho with ⟨rfl, -⟩ | ⟨-, -, hper⟩
  · exact absurd hb (not_lsqOccupied_tail c b)
  · exact ⟨ho, hper⟩

/-- The entry pushed stands at the tail. -/
theorem Advance.lsq_pushed {e : RobEntry} {q : LsqEntry} (hq : st = .queue e q) :
    n.lsqOccupied c b.lsqTail = true ∧ n.lsqAt b.lsqTail = q := by
  have ho := (hA.lsqOccupied_iff hst hI.shaped (performs_ne hI) hI.shaped.lsqTailIn).mpr
    (.inr ⟨⟨e, q, hq⟩, rfl⟩)
  rcases hA.lsqOccupied_cases hI hst hI.shaped.lsqTailIn ho with ⟨-, e', h⟩ | ⟨hb, -⟩
  · rw [hq] at h
    injection h with _ h
    exact ⟨ho, h.symm⟩
  · exact absurd hb (not_lsqOccupied_tail c b)

end

section
variable {c : Config} {b n : Bank} {st : Staging} {pop : Bool} (hI : BankInv c b) (hst : StagingOk c b st)
  (hA : Advance c b st pop n) {i : Nat} (hi : i < c.lsqSize) (hb : b.lsqOccupied c i = true)
  (hp : Persists b (pop && b.authorises i) (b.lsqAt i) (n.lsqAt i))
include hp

/-- A committed store was one before, or is committed in this cycle. -/
theorem Persists.committed (h : (n.lsqAt i).committedStore = true) :
    (b.lsqAt i).committedStore = true ∨ (pop && b.authorises i) = true := by
  obtain ⟨hs, hr⟩ := committedStore_iff.mp h
  rw [hp.type] at hs
  rw [hp.ready, LsqType.isStore_iff.mp hs, Bool.false_and, Bool.false_and, Bool.or_false, Bool.or_eq_true] at hr
  exact hr.imp_left fun hr => committedStore_iff.mpr ⟨hs, hr⟩

/-- What is ready stays ready. -/
theorem Persists.ready_mono (h : (b.lsqAt i).ready = true) : (n.lsqAt i).ready = true := by simp [hp.ready, h]

theorem Persists.committed_mono (h : (b.lsqAt i).committedStore = true) : (n.lsqAt i).committedStore = true := by
  obtain ⟨hs, hr⟩ := committedStore_iff.mp h
  exact committedStore_iff.mpr ⟨hp.type ▸ hs, hp.ready_mono hr⟩

theorem Persists.uncommitted (h : (n.lsqAt i).committedStore = false) : (b.lsqAt i).committedStore = false := by
  by_contra hc
  rw [hp.committed_mono (by simpa using hc)] at h
  cases h

include hI hst hA hi hb

/-- The instruction of an entry that is no committed store stays in the reorder buffer: the head pops with the store
it commits, and a load's slot is not ready. -/
theorem Advance.persists_rob (h : (n.lsqAt i).committedStore = false) : n.robOccupied (b.lsqAt i).rob = true := by
  rcases not_committedStore_iff.mp (hp.uncommitted h) with hl | ⟨hs, hr⟩
  · obtain ⟨ho, hnr, -⟩ := (hI.queue.slots i hi hb).load hl
    exact hA.keeps hst ho hnr
  · obtain ⟨ho, hk, hd, -⟩ := (hI.queue.slots i hi hb).pendingStore hs hr
    refine (hA.robOccupied_iff hst _).mpr (.inl ⟨ho, fun ⟨hpop, hh⟩ => ?_⟩)
    have ha : b.authorises i = true := by
      rw [hh] at hk hd
      rw [Bank.authorises, Bank.robHeadEntry, hk, hd, slot_toNat hI hi]
      simp
    have hready : (n.lsqAt i).ready = true := by simp [hp.ready, hpop, ha]
    rw [committedStore_iff.mpr ⟨hp.type ▸ hs, hready⟩] at h
    cases h

omit hst in
/-- The operands of a committed store are known (R278). -/
theorem Advance.persists_resolved (h : (n.lsqAt i).committedStore = true) :
    (n.lsqAt i).basec = false ∧ (n.lsqAt i).valuec = false := by
  have hres : (b.lsqAt i).basec = false ∧ (b.lsqAt i).valuec = false := by
    rcases hp.committed h with hc | ha
    · exact (hI.queue.slots i hi hb).committed hc
    · obtain ⟨-, -, -, -, -, -, hbase, hval⟩ := hA.authorised hI ha
      exact ⟨hbase, hval⟩
  rw [hp.basec, hp.valuec, hres.1, hres.2]
  exact ⟨rfl, rfl⟩

omit hst in
/-- An entry with an operand that waits is no committed store. -/
theorem Advance.persists_waiting (h : (n.lsqAt i).basec = true ∨ (n.lsqAt i).valuec = true) :
    (n.lsqAt i).committedStore = false := by
  by_contra hc
  obtain ⟨hbase, hval⟩ := hA.persists_resolved hI hi hb hp (by simpa using hc)
  simp [hbase, hval] at h

include hst in
theorem Advance.persists_slotOk (hnp : ¬(b.performs = true ∧ i = b.lsqHead)) : LsqSlotOk n i := by
  have hslot := hI.queue.slots i hi hb
  constructor
  case load =>
    intro hl
    rw [hp.type] at hl
    obtain ⟨ho, hr, hk, hrdy, hv⟩ := hslot.load hl
    have hna : (pop && b.authorises i) = false := by
      by_contra ha
      have hs := (hA.authorised hI (by simpa using ha)).2.2.2.1
      rw [LsqType.isStore_iff.mp hs] at hl
      cases hl
    have hnf : ¬b.finishes c (b.lsqAt i).rob := by
      rintro (h | h | h)
      · obtain ⟨k, hk, he, -, hrob⟩ := unitFinishes_entry hI h
        exact hI.queue.apartFromStation i hi hb hl _ (rsAt_mem hk) he hrob
      · obtain ⟨-, -, -, -, -, -, -, hk', -⟩ := storeFinishes_store hI h
        rw [hk] at hk'
        cases hk'
      · obtain ⟨hperf, hho, hhl, hrob, -⟩ := loadFinishes_load hI h
        exact hnp ⟨hperf, uncommitted_distinct hI hi hI.shaped.lsqHeadIn hb hho
          (not_committedStore_iff.mpr (.inl hl)) (not_committedStore_iff.mpr (.inl hhl)) hrob.symm⟩
    obtain ⟨ho', hr'⟩ := hA.stays_pending hst ho hr hnf
    rw [hp.rob, (hA.occupied_slot ho).1, hp.valuec, hv, hp.ready, hp.basec, hrdy, hl, hna]
    refine ⟨ho', hr', hk, ?_, rfl⟩
    cases (b.lsqAt i).basec <;> simp
  case pendingStore =>
    intro hs hr
    have hu := not_committedStore_iff.mpr (.inr ⟨hs, hr⟩)
    have ho' := hA.persists_rob hI hst hi hb hp hu
    have hr0 : (b.lsqAt i).ready = false := by
      by_contra h
      rw [hp.ready_mono (by simpa using h)] at hr
      cases hr
    rw [hp.type] at hs
    obtain ⟨ho, hk, hd, hres⟩ := hslot.pendingStore hs hr0
    rw [hp.rob, (hA.occupied_slot ho).1, (hA.occupied_slot ho).2, hA.ready_iff ho, hp.basec, hp.valuec]
    refine ⟨ho', hk, hd, fun h => ?_⟩
    have hknown : (b.lsqAt i).basec = false ∧ (b.lsqAt i).valuec = false := by
      rcases h with h | h | h | h
      · exact hres h
      · exact absurd hk (unitFinishes_kind hI h)
      · obtain ⟨j, hj, hjo, hrob, hjb, hjv, -, -, hjd⟩ := storeFinishes_store hI h
        have hij : i = j := by
          have := congrArg BitVec.toNat (hd.symm.trans hjd)
          rwa [slot_toNat hI hi, slot_toNat hI hj] at this
        exact hij ▸ ⟨hjb, hjv⟩
      · obtain ⟨-, -, -, -, -, hk'⟩ := loadFinishes_load hI h
        rw [hk] at hk'
        cases hk'
    rw [hknown.1, hknown.2]
    exact ⟨rfl, rfl⟩
  case committed => exact hA.persists_resolved hI hi hb hp
  case waitBase =>
    intro hw
    have ho := hA.persists_rob hI hst hi hb hp (hA.persists_waiting hI hi hb hp (.inl hw))
    simp only [hp.basec, Bool.and_eq_true, Bool.not_eq_true'] at hw
    rw [hp.rob, hp.baseq]
    exact hA.waitOk hst (hslot.waitBase hw.1) hw.2 ho
  case waitValue =>
    intro hw
    have ho := hA.persists_rob hI hst hi hb hp (hA.persists_waiting hI hi hb hp (.inr hw))
    simp only [hp.valuec, Bool.and_eq_true, Bool.not_eq_true'] at hw
    rw [hp.rob, hp.valueq]
    exact hA.waitOk hst (hslot.waitValue hw.1) hw.2 ho

end

section
variable {c : Config} {b n : Bank} {st : Staging} {pop : Bool} (hI : BankInv c b) (hst : StagingOk c b st)
  (hA : Advance c b st pop n)
include hI hst hA

theorem Advance.pushed_slotOk {e : RobEntry} {i : Nat} (hi : i = b.lsqTail)
    (hq : st = .queue e (n.lsqAt i)) : LsqSlotOk n i := by
  have hp := hst.queue _ _ hq
  have he : st.entry = some e := by rw [hq]; rfl
  have ho : n.robOccupied b.robTail = true := hA.tail_occupied hst he
  obtain ⟨hk, hd⟩ := hA.entry he
  have hr := (hA.ready_tail hI he).trans hp.notReady
  constructor
  case load =>
    intro hl
    obtain ⟨hke, hrdy, hv⟩ := hp.load hl
    rw [hp.rob]
    exact ⟨ho, hr, hk.trans hke, hrdy, hv⟩
  case pendingStore =>
    intro hs _
    obtain ⟨hke, hde, -⟩ := hp.store hs
    rw [hp.rob, hr, hk, hd, hi]
    exact ⟨ho, hke, hde, nofun⟩
  case committed =>
    intro hc
    obtain ⟨hs, hrdy⟩ := committedStore_iff.mp hc
    exact absurd ((hp.store hs).2.2.symm.trans hrdy) (by decide)
  case waitBase =>
    intro hw
    rw [hp.rob]
    exact hA.waitOk_tail hst (hp.waitBase hw) he
  case waitValue =>
    intro hw
    rw [hp.rob]
    exact hA.waitOk_tail hst (hp.waitValue hw) he

theorem Advance.queue_committedPrefix {i j : Nat} (hi : i < c.lsqSize) (hj : j < c.lsqSize)
    (hio : n.lsqOccupied c i = true) (hjo : n.lsqOccupied c j = true) (hlt : n.lsqAge c i < n.lsqAge c j)
    (hjc : (n.lsqAt j).committedStore = true) : (n.lsqAt i).committedStore = true := by
  rw [hA.lsqAge_lt hst hI.shaped (performs_ne hI) hi hj hio hjo] at hlt
  rcases hA.lsqOccupied_cases hI hst hj hjo with ⟨-, e, hq⟩ | ⟨hjb, -, hjp⟩
  · rw [(hst.queue _ _ hq).uncommitted] at hjc
    cases hjc
  rcases hA.lsqOccupied_cases hI hst hi hio with ⟨rfl, -⟩ | ⟨hib, -, hip⟩
  · exact absurd hlt (Nat.lt_asymm ((lsqOccupied_iff_age hj).mp hjb))
  refine hip.committed_mono ?_
  rcases hjp.committed hjc with hjc | ha
  · exact hI.queue.committedPrefix i hi j hj hib hjb hlt hjc
  · obtain ⟨-, -, -, hjs, hjr, hrob, -⟩ := hA.authorised hI ha
    by_contra hic
    have hage := hI.queue.programOrder i hi j hj hib hjb hlt (by simpa using hic)
      (not_committedStore_iff.mpr (.inr ⟨hjs, hjr⟩))
    rw [hrob, robAge_eq_zero.mpr rfl] at hage
    exact Nat.not_lt_zero _ hage

theorem Advance.queue_programOrder {i j : Nat} (hi : i < c.lsqSize) (hj : j < c.lsqSize)
    (hio : n.lsqOccupied c i = true) (hjo : n.lsqOccupied c j = true) (hlt : n.lsqAge c i < n.lsqAge c j)
    (hiu : (n.lsqAt i).committedStore = false) (hju : (n.lsqAt j).committedStore = false) :
    n.robAge (n.lsqAt i).rob < n.robAge (n.lsqAt j).rob := by
  rw [hA.lsqAge_lt hst hI.shaped (performs_ne hI) hi hj hio hjo] at hlt
  have htail {k : Nat} (hk : k < c.lsqSize) (h : b.lsqOccupied c k = true) : ¬b.lsqAge c b.lsqTail < b.lsqAge c k :=
    Nat.lt_asymm ((lsqOccupied_iff_age hk).mp h)
  rcases hA.lsqOccupied_cases hI hst hi hio with ⟨rfl, -⟩ | ⟨hib, -, hip⟩
  · rcases hA.lsqOccupied_cases hI hst hj hjo with ⟨rfl, -⟩ | ⟨hjb, -⟩
    · exact absurd hlt (Nat.lt_irrefl _)
    · exact absurd hlt (htail hj hjb)
  have hir := hA.persists_rob hI hst hi hib hip hiu
  have hiu := hip.uncommitted hiu
  rw [hip.rob]
  rcases hA.lsqOccupied_cases hI hst hj hjo with ⟨rfl, e, hq⟩ | ⟨hjb, -, hjp⟩
  · have he : st.entry = some e := by rw [hq]; rfl
    rw [(hst.queue _ _ hq).rob, hA.robAge_lt hst hir (hA.tail_occupied hst he)]
    exact (robOccupied_iff_age b _).mp (uncommitted_occupied hI hi hib hiu)
  · rw [hjp.rob, hA.robAge_lt hst hir (hA.persists_rob hI hst hj hjb hjp hju)]
    exact hI.queue.programOrder i hi j hj hib hjb hlt hiu (hjp.uncommitted hju)

theorem Advance.queue_memoryWrite {t : Slot} (ht : n.robOccupied t = true)
    (hk : (slotGet n.rob t).kind = .memoryWrite) :
    (slotGet n.rob t).dest.toNat < c.lsqSize ∧ n.lsqOccupied c (slotGet n.rob t).dest.toNat = true
      ∧ (n.lsqAt (slotGet n.rob t).dest.toNat).type.isStore = true
      ∧ (n.lsqAt (slotGet n.rob t).dest.toNat).ready = false
      ∧ (n.lsqAt (slotGet n.rob t).dest.toNat).rob = t := by
  rcases (hA.robOccupied_iff hst t).mp ht with ⟨hb, hnp⟩ | ⟨⟨e, he⟩, rfl⟩
  · obtain ⟨hk', hd⟩ := hA.occupied_slot hb
    rw [hk'] at hk
    rw [hd]
    obtain ⟨hi, ho, hs, hr, hrob⟩ := hI.queue.memoryWriteNamesStore t hb hk
    generalize (slotGet b.rob t).dest.toNat = i at hi ho hs hr hrob ⊢
    obtain ⟨ho', hp⟩ := hA.lsq_stays hI hst hi ho fun hperf hh => by
      rw [hh, (performs_head hI hperf).2.1] at hr
      cases hr
    have hna : (pop && b.authorises i) = false := by
      by_contra ha
      obtain ⟨hpop, -, -, -, -, hrh, -⟩ := hA.authorised hI (by simpa using ha)
      exact hnp ⟨hpop, hrob.symm.trans hrh⟩
    rw [hp.type, hp.ready, hp.rob, hr, LsqType.isStore_iff.mp hs, hna]
    exact ⟨hi, ho', hs, rfl, hrob⟩
  · obtain ⟨hke, hde⟩ := hA.entry he
    rw [hke] at hk
    cases st with
    | nothing => cases he
    | alone e' => cases he; exact absurd hk (hst.alone _ rfl).2
    | station e' k r =>
      cases he
      rw [(hst.station _ _ _ rfl).kind] at hk
      split at hk <;> cases hk
    | queue e' q =>
      cases he
      have hp := hst.queue _ _ rfl
      obtain ⟨ho, hat⟩ := hA.lsq_pushed hI hst rfl
      have hs : q.type.isStore = true := by
        rw [LsqType.isStore_iff, ← Bool.not_eq_true]
        intro hl
        rw [(hp.load hl).1] at hk
        cases hk
      obtain ⟨-, hd, hr⟩ := hp.store hs
      rw [hde, hd, slot_toNat hI hI.shaped.lsqTailIn, hat]
      exact ⟨hI.shaped.lsqTailIn, ho, hs, hr, hp.rob⟩

theorem Advance.queue_apart {i k : Nat} (hi : i < c.lsqSize) (ho : n.lsqOccupied c i = true)
    (hl : (n.lsqAt i).type.isLoad = true) (hk : k < b.rs.length) (hlive : (n.rsAt k).empty = false) :
    (n.rsAt k).rob ≠ (n.lsqAt i).rob := by
  rcases hA.lsqOccupied_cases hI hst hi ho with ⟨-, e, hq⟩ | ⟨hb, -, hp⟩ <;>
    rcases hA.live_cases hst hk hlive with ⟨e', hpush⟩ | ⟨hne, -, hs⟩
  · rw [hq] at hpush
    cases hpush
  · rw [(hst.queue _ _ hq).rob, hs.rob]
    exact fun h => not_robOccupied_tail b (h ▸ (hI.station.slotPending _ (rsAt_mem hk) hne).1)
  · rw [(hst.station _ _ _ hpush).rob, hp.rob]
    rw [hp.type] at hl
    exact fun h => not_robOccupied_tail b (h ▸ ((hI.queue.slots i hi hb).load hl).1)
  · rw [hs.rob, hp.rob]
    rw [hp.type] at hl
    exact hI.queue.apartFromStation i hi hb hl _ (rsAt_mem hk) hne

theorem Advance.queue_inflight (h : n.lsqInflight = true) :
    n.lsqEmpty = false ∧ (n.lsqAt n.lsqHead).ready = true := by
  obtain ⟨hnp, hor⟩ := hA.inflight h
  obtain ⟨he, hr⟩ : b.lsqEmpty = false ∧ (b.lsqAt b.lsqHead).ready = true :=
    hor.elim (fun h => hI.queue.inflightReady h) id
  obtain ⟨ho, hp⟩ := hA.lsq_stays hI hst hI.shaped.lsqHeadIn (lsqHead_occupied hI.shaped he)
    fun hperf => absurd (hnp.symm.trans hperf) (by decide)
  have hhead : n.lsqHead = b.lsqHead := by rw [hA.lsqHead, hnp]; rfl
  rw [← hhead] at ho
  refine ⟨?_, ?_⟩
  · simp only [Bank.lsqEmpty, beq_eq_false_iff_ne]
    exact fun h => not_lsqOccupied_tail c n (h ▸ ho)
  · rw [hhead]
    exact hp.ready_mono hr

theorem Advance.queueOk : QueueOk c n := by
  constructor
  case slots =>
    intro i hi ho
    rcases hA.lsqOccupied_cases hI hst hi ho with ⟨ht, e, hq⟩ | ⟨hb, hnp, hp⟩
    · exact hA.pushed_slotOk hI hst ht hq
    · exact hA.persists_slotOk hI hst hi hb hp hnp
  case committedPrefix => exact fun i hi j hj => hA.queue_committedPrefix hI hst hi hj
  case programOrder => exact fun i hi j hj => hA.queue_programOrder hI hst hi hj
  case memoryWriteNamesStore => exact fun t => hA.queue_memoryWrite hI hst
  case apartFromStation =>
    intro i hi ho hl e he hlive
    obtain ⟨k, hk, rfl⟩ := mem_rs.mp he
    exact hA.queue_apart hI hst hi ho hl (hA.rsLength ▸ hk) hlive
  case inflightReady => exact hA.queue_inflight hI hst
  case countBounded => exact hA.count hI.queue.countBounded

end

/-! ### Owners and the fetch unit -/

theorem QueuePush.kind {c : Config} {b : Bank} {e : RobEntry} {q : LsqEntry} (h : QueuePush c b e q) :
    e.kind ≠ .endProg := by
  cases hl : q.type.isLoad with
  | true => rw [(h.load hl).1]; nofun
  | false => rw [(h.store (LsqType.isStore_iff.mpr hl)).1]; nofun

theorem StationPush.kind_ne {b : Bank} {e : RobEntry} {k : Nat} {r : RsEntry} (h : StationPush b e k r) :
    e.kind ≠ .endProg := by
  rw [h.kind]
  split <;> nofun

theorem Staging.isEnd_iff {st : Staging} : st.isEnd = true ↔ ∃ e, st.entry = some e ∧ e.kind = .endProg := by
  unfold Staging.isEnd
  cases st.entry <;> simp

theorem robEmpty_of_occupied {b : Bank} {i : Slot} (h : b.robOccupied i = true) : b.robEmpty = false := by
  rw [← Bool.not_eq_true]
  intro he
  have he : b.robHead = b.robTail := by simpa [Bank.robEmpty] using he
  rw [robOccupied_iff_age, ← he, robAge_eq_zero.mpr rfl] at h
  exact Nat.not_lt_zero _ h

/-- The youngest entry's slot. -/
theorem robTail_sub_one_occupied {b : Bank} (h : b.robEmpty = false) : b.robOccupied (b.robTail - 1#5) = true := by
  have hne : b.robHead ≠ b.robTail := by simpa [Bank.robEmpty] using h
  rw [robOccupied_iff_age]
  unfold Bank.robAge
  bv_omega

section
variable {c : Config} {b n : Bank} {st : Staging} {pop : Bool} (hI : BankInv c b) (hst : StagingOk c b st)
  (hA : Advance c b st pop n)
include hI hst hA

/-- A pending entry that was allocated in this cycle stands beside the station or queue entry that owns it. -/
theorem Advance.tail_owned {e : RobEntry} (he : st.entry = some e) (hr : e.ready = false) :
    (∃ r ∈ n.rs, r.empty = false ∧ r.rob = b.robTail)
      ∨ ∃ i < c.lsqSize, n.lsqOccupied c i = true ∧ (n.lsqAt i).committedStore = false
        ∧ (n.lsqAt i).rob = b.robTail := by
  cases st with
  | nothing => cases he
  | alone e' =>
    cases he
    exact absurd (hr.symm.trans (hst.alone _ rfl).1) (by decide)
  | station e' k r =>
    have hp := hst.station _ _ _ rfl
    refine .inl ⟨n.rsAt k, rsAt_mem (hA.rsLength.symm ▸ hp.inRange), ?_⟩
    rw [hA.rs_pushed hst rfl]
    exact ⟨hp.empty, hp.rob⟩
  | queue e' q =>
    have hp := hst.queue _ _ rfl
    obtain ⟨ho, hat⟩ := hA.lsq_pushed hI hst rfl
    exact .inr ⟨b.lsqTail, hI.shaped.lsqTailIn, ho, by rw [hat]; exact hp.uncommitted, by rw [hat]; exact hp.rob⟩

/-- The owner of a slot that stays pending stays with it: a harvest, a load's access or a store's commit would have
finished or popped the slot. -/
theorem Advance.old_owned {t : Slot} (ht : b.robOccupied t = true) (hnp : ¬(pop = true ∧ t = b.robHead))
    (hr : (slotGet b.rob t).ready = false) (hnf : ¬b.finishes c t) :
    (∃ r ∈ n.rs, r.empty = false ∧ r.rob = t)
      ∨ ∃ i < c.lsqSize, n.lsqOccupied c i = true ∧ (n.lsqAt i).committedStore = false
        ∧ (n.lsqAt i).rob = t := by
  rcases hI.owners.pendingOwned t ht hr with ⟨r, hrs, he, rfl⟩ | ⟨i, hi, ho, hu, rfl⟩
  · obtain ⟨k, hk, rfl⟩ := mem_rs.mp hrs
    rcases hA.rs_cases hst hk with ⟨e, hp⟩ | ⟨he', -⟩ | ⟨-, hh, -⟩ | ⟨-, -, hs⟩
    · exact absurd (he.symm.trans (hst.station _ _ _ hp).free) (by decide)
    · exact absurd (he.symm.trans he') (by decide)
    · exact absurd (.inl (unitFinishes_of_harvested hh)) hnf
    · exact .inl ⟨n.rsAt k, rsAt_mem (hA.rsLength.symm ▸ hk), hs.empty.trans he, hs.rob⟩
  · have hnperf : b.performs = true → i ≠ b.lsqHead := by
      rintro hperf rfl
      rcases not_committedStore_iff.mp hu with hl | ⟨-, hnr⟩
      · exact hnf (.inr (.inr ⟨hperf, hl, rfl⟩))
      · exact absurd (hnr.symm.trans (performs_head hI hperf).2.1) (by decide)
    obtain ⟨ho', hp⟩ := hA.lsq_stays hI hst hi ho hnperf
    refine .inr ⟨i, hi, ho', ?_, hp.rob⟩
    by_contra hc
    rcases hp.committed (by simpa using hc) with hc | ha
    · exact absurd (hu.symm.trans hc) (by decide)
    · obtain ⟨hpop, -, -, -, -, hrob, -⟩ := hA.authorised hI ha
      exact hnp ⟨hpop, hrob⟩

theorem Advance.ownersOk : OwnersOk c n := by
  constructor
  case pendingOwned =>
    intro t ht hr
    rcases (hA.robOccupied_iff hst t).mp ht with ⟨hb, hnp⟩ | ⟨⟨e, he⟩, rfl⟩
    · have hnr : ¬((slotGet b.rob t).ready = true ∨ b.finishes c t) := fun h => by
        rw [(hA.ready_iff hb).mpr h] at hr
        cases hr
      rw [not_or, Bool.not_eq_true] at hnr
      exact hA.old_owned hI hst hb hnp hnr.1 hnr.2
    · exact hA.tail_owned hI hst he ((hA.ready_tail hI he).symm.trans hr)
  case endReady =>
    intro t ht hk
    rcases (hA.robOccupied_iff hst t).mp ht with ⟨hb, -⟩ | ⟨⟨e, he⟩, rfl⟩
    · rw [(hA.occupied_slot hb).1] at hk
      exact (hA.ready_iff hb).mpr (.inl (hI.owners.endReady t hb hk))
    · rw [(hA.entry he).1] at hk
      rw [hA.ready_tail hI he]
      cases st with
      | nothing => cases he
      | alone e' => cases he; exact (hst.alone _ rfl).1
      | station e' k r => cases he; exact absurd hk (hst.station _ _ _ rfl).kind_ne
      | queue e' q => cases he; exact absurd hk (hst.queue _ _ rfl).kind

omit hI hA in
/-- After a stop nothing is dispatched (R151). -/
theorem StagingOk.entry_none (h : b.fetchStopped = true) : st.entry = none := by
  by_contra hne
  obtain ⟨e, he⟩ := Option.ne_none_iff_exists'.mp hne
  exact absurd ((hst.room e he).notStopped.symm.trans h) (by decide)

/-- A JALR that waits after a cycle waits for a slot pending in it, and fetching has not stopped (R152). -/
theorem Advance.jalrWait_pending (h : n.jalrWait.valid = true) :
    b.Pending n.jalrWait.q ∧ n.fetchStopped = false := by
  rw [hA.stopped]
  rcases hA.waits h with ⟨hw, hnr⟩ | ⟨hp, ⟨e, he⟩, hne⟩
  · rw [hw] at h ⊢
    have hns : b.fetchStopped = false := by
      by_contra hs
      exact absurd ((hI.fetch.notBoth (by simpa using hs)).symm.trans h) (by decide)
    have hne : st.isEnd = false := by
      by_contra hend
      obtain ⟨e, he, -⟩ := Staging.isEnd_iff.mp (by simpa using hend)
      exact absurd ((hst.room e he).notWaiting.symm.trans h) (by decide)
    obtain ⟨ho, hk⟩ := hI.fetch.jalrWaits h
    exact ⟨⟨ho, hk, hnr hns⟩, by rw [hne, hns]; rfl⟩
  · exact ⟨hp, by rw [hne, (hst.room e he).notStopped]; rfl⟩

theorem Advance.fetchOk : FetchOk n := by
  constructor
  case stoppedHasEnd =>
    intro hs
    rw [hA.stopped, Bool.or_eq_true] at hs
    rcases hs with hs | hs
    · obtain ⟨e, he, hk⟩ := Staging.isEnd_iff.mp hs
      have ho := hA.tail_occupied hst he
      have ht : n.robTail - 1#5 = b.robTail := by simp [hA.robTail, Staging.robTail, he]
      exact ⟨robEmpty_of_occupied ho, by rw [ht, (hA.entry he).1, hk]⟩
    · obtain ⟨hne, hk⟩ := hI.fetch.stoppedHasEnd hs
      have hb := robTail_sub_one_occupied hne
      have ht : n.robTail = b.robTail := by simp [hA.robTail, Staging.robTail, hst.entry_none hs]
      have ho := (hA.robOccupied_iff hst (b.robTail - 1#5)).mpr (.inl ⟨hb, fun ⟨hp, hh⟩ => by
        rw [hh] at hk
        exact (hA.popOk hp).2 hk⟩)
      exact ⟨robEmpty_of_occupied ho, by rw [ht, (hA.occupied_slot hb).1, hk]⟩
  case endIsYoungest =>
    intro t ht hk
    rw [hA.stopped, hA.robTail]
    rcases (hA.robOccupied_iff hst t).mp ht with ⟨hb, -⟩ | ⟨⟨e, he⟩, rfl⟩
    · rw [(hA.occupied_slot hb).1] at hk
      obtain ⟨hs, htail⟩ := hI.fetch.endIsYoungest t hb hk
      exact ⟨by rw [hs, Bool.or_true], by simp [Staging.robTail, hst.entry_none hs, htail]⟩
    · rw [(hA.entry he).1] at hk
      exact ⟨by rw [Staging.isEnd_iff.mpr ⟨e, he, hk⟩, Bool.true_or], by simp [Staging.robTail, he]⟩
  case jalrWaits =>
    intro hw
    obtain ⟨⟨ho, hk, hr⟩, -⟩ := hA.jalrWait_pending hI hst hw
    exact ⟨hA.keeps hst ho hr, (hA.occupied_slot ho).1.trans hk⟩
  case notBoth =>
    intro hs
    by_contra hw
    exact absurd (hs.symm.trans (hA.jalrWait_pending hI hst (by simpa using hw)).2) (by decide)

/-- A cycle that does not flush keeps the invariant of the bank. -/
theorem Advance.bankInv : BankInv c n where
  valid := hI.valid
  shaped := hA.shaped hI.shaped
  zero := hA.zeroOk hI.zero
  rat := hA.ratOk hst hI.zero hI.rat
  station := hA.stationOk hI hst
  units := hA.unitsOk hI hst
  queue := hA.queueOk hI hst
  owners := hA.ownersOk hI hst
  fetch := hA.fetchOk hI hst

end

/-! ### A bank with nothing in flight but stores -/

/-- Nothing is in flight but what the load/store queue holds: after a reset or a flush. -/
structure Drained (n : Bank) : Prop where
  rob : n.robHead = n.robTail
  rs : ∀ e ∈ n.rs, e.empty = true
  fu : n.fu = FuArray.idle
  clean : ∀ i, (slotGet n.reg i).dirty = false
  fetchStopped : n.fetchStopped = false
  jalrWait : n.jalrWait.valid = false

theorem not_robOccupied_of_empty {n : Bank} (h : n.robHead = n.robTail) (t : Slot) : ¬n.robOccupied t = true := by
  intro ht
  have := robEmpty_of_occupied ht
  simp [Bank.robEmpty, h] at this

theorem FuArray.idle_unit (c : FuClass) (u : FuInst) : FuArray.idle.unit c u = Fu.idle := by
  cases c <;> cases u <;> rfl

/-- With nothing in flight the invariant is that of the sizes, register 0 and the queue. -/
theorem Drained.bankInv {c : Config} {n : Bank} (hd : Drained n) (hv : c.Valid) (hs : Shaped c n)
    (hz : (slotGet n.reg 0#5).value = 0#32) (hb : ∀ e ∈ n.rs, e.busy = (e.q1c || e.q2c)) (hq : QueueOk c n) :
    BankInv c n := by
  have hocc := not_robOccupied_of_empty hd.rob
  have hclean (i : Reg) : ¬(slotGet n.reg i).dirty = true := by rw [hd.clean]; nofun
  have hempty {e : RsEntry} (he : e ∈ n.rs) : ¬e.empty = false := by rw [hd.rs e he]; nofun
  have hidle (cl : FuClass) (u : FuInst) : ¬(n.fu.unit cl u).busy = true := by rw [hd.fu, FuArray.idle_unit]; nofun
  have hstop : ¬n.fetchStopped = true := by rw [hd.fetchStopped]; nofun
  have hwait : ¬n.jalrWait.valid = true := by rw [hd.jalrWait]; nofun
  exact {
    valid := hv
    shaped := hs
    zero := ⟨hz, hd.clean 0#5⟩
    rat := ⟨fun i h => absurd h (hclean i), fun _ t _ h => absurd h.1 (hocc t), fun i _ h => absurd h (hclean i)⟩
    station := ⟨hb, fun e he h => absurd h (hempty he), fun k _ hk _ h => absurd h (hempty (rsAt_mem hk)),
      fun e he h => absurd h (hempty he), fun e he h => absurd h (hempty he)⟩
    units := ⟨fun f hf => by
        obtain ⟨cl, u, rfl⟩ := mem_units.mp hf
        rw [hd.fu, FuArray.idle_unit]
        rfl,
      fun cl u h => absurd h (hidle cl u), fun e he h => absurd h (hempty he),
      fun cl _ u _ h => absurd h (hidle cl u)⟩
    queue := hq
    owners := ⟨fun t h => absurd h (hocc t), fun t h => absurd h (hocc t)⟩
    fetch := ⟨fun h => absurd h hstop, fun t h => absurd h (hocc t), fun h => absurd h hwait,
      fun h => absurd h hstop⟩ }

/-! ### The misprediction flush (R322, R283) -/

/-- What the flush makes of the bank `b`. -/
structure Flushed (c : Config) (b n : Bank) : Prop where
  fetchStopped : n.fetchStopped = false
  jalrWait : n.jalrWait.valid = false
  reg : n.reg = slotMap (fun r => { r with dirty := false }) b.reg
  rob : n.robHead = n.robTail
  rs : n.rs = b.rs.map fun e => { e with empty := true }
  fu : n.fu = FuArray.idle
  lsq : n.lsq = b.lsq
  lsqHead : n.lsqHead = b.lsqHead
  lsqTail : n.lsqTail = truncateFrom c b c.lsqSize b.lsqHead
  inflight : n.lsqInflight = true → b.lsqHead ≠ n.lsqTail ∧ b.lsqInflight = true
  count : b.lsqCount ≤ 2#2 → n.lsqCount ≤ 2#2

/-- The walk of the truncation reads only the queue. -/
theorem truncateFrom_congr {c : Config} {b n : Bank} (hl : n.lsq = b.lsq) (ht : n.lsqTail = b.lsqTail) (fuel i : Nat) :
    truncateFrom c n fuel i = truncateFrom c b fuel i := by
  induction fuel generalizing i with
  | zero => rfl
  | succ fuel ih =>
    unfold truncateFrom Bank.lsqAt
    rw [hl, ht, ih]

theorem truncateLsq_eq (c : Config) (b : Bank) :
    truncateLsq c b = { b with
      lsqTail := truncateFrom c b c.lsqSize b.lsqHead
      lsqInflight := (truncateLsq c b).lsqInflight
      lsqCount := (truncateLsq c b).lsqCount } := by
  unfold truncateLsq
  dsimp only
  split <;> rfl

theorem truncateLsq_lsqTail (c : Config) (b : Bank) :
    (truncateLsq c b).lsqTail = truncateFrom c b c.lsqSize b.lsqHead := by rw [truncateLsq_eq]

theorem truncateLsq_inflight {c : Config} {b : Bank} (h : (truncateLsq c b).lsqInflight = true) :
    b.lsqHead ≠ (truncateLsq c b).lsqTail ∧ b.lsqInflight = true := by
  unfold truncateLsq at h ⊢
  dsimp only at h ⊢
  split at h
  · cases h
  · next hne => rw [if_neg hne]; exact ⟨hne, h⟩

theorem truncateLsq_count {c : Config} {b : Bank} (h : b.lsqCount ≤ 2#2) : (truncateLsq c b).lsqCount ≤ 2#2 := by
  unfold truncateLsq
  dsimp only
  split
  · show 0#2 ≤ 2#2
    decide
  · exact h

theorem flushBank_flushed (c : Config) (h : Slot) (a : Word) (b : Bank) : Flushed c b (flushBank c h a b) := by
  unfold flushBank
  constructor
  case inflight => exact truncateLsq_inflight
  case count => exact fun hc => truncateLsq_count hc
  case lsqTail => rw [truncateLsq_lsqTail]; exact truncateFrom_congr (b := b) (by rfl) (by rfl) _ _
  all_goals rw [truncateLsq_eq]

/-- Every slot that the truncation walks over is an occupied committed store (R283). -/
theorem truncateFrom_spec {c : Config} {b : Bank} (hs : Shaped c b) (fuel : Nat) {i : Nat} (hi : i < c.lsqSize)
    (hage : b.lsqAge c i ≤ b.lsqAge c b.lsqTail)
    (hc : ∀ j < c.lsqSize, b.lsqAge c j < b.lsqAge c i → (b.lsqAt j).committedStore = true) :
    truncateFrom c b fuel i < c.lsqSize ∧ b.lsqAge c (truncateFrom c b fuel i) ≤ b.lsqAge c b.lsqTail
      ∧ ∀ j < c.lsqSize, b.lsqAge c j < b.lsqAge c (truncateFrom c b fuel i) →
        (b.lsqAt j).committedStore = true := by
  induction fuel generalizing i with
  | zero => exact ⟨hi, hage, hc⟩
  | succ fuel ih =>
    unfold truncateFrom
    split
    · exact ⟨hi, hage, hc⟩
    · next hne =>
      split
      · next hcom =>
        have hinj := lsqAge_inj hs.lsqHeadIn hi hs.lsqTailIn
        have hlt := lsqAge_lt b hs.lsqTailIn
        have hnext := lsqAge_next hs.lsqHeadIn hi (by omega)
        refine ih (lsqNext_lt hi) (by omega) fun j hj hjlt => ?_
        rcases Nat.lt_or_ge (b.lsqAge c j) (b.lsqAge c i) with h | h
        · exact hc j hj h
        · obtain rfl := (lsqAge_inj hs.lsqHeadIn hj hi).mp (by omega)
          exact hcom
      · exact ⟨hi, hage, hc⟩

section
variable {c : Config} {b n : Bank} (hI : BankInv c b) (hF : Flushed c b n)
include hF

theorem Flushed.clean (i : Reg) : slotGet n.reg i = { slotGet b.reg i with dirty := false } := by
  rw [hF.reg, slotGet_slotMap]

theorem Flushed.rs_old {e : RsEntry} (he : e ∈ n.rs) : ∃ e' ∈ b.rs, e = { e' with empty := true } := by
  rw [hF.rs] at he
  obtain ⟨e', he', rfl⟩ := List.mem_map.mp he
  exact ⟨e', he', rfl⟩

theorem Flushed.rs_empty {e : RsEntry} (he : e ∈ n.rs) : e.empty = true := by
  obtain ⟨e', -, rfl⟩ := hF.rs_old he
  rfl

theorem Flushed.drained : Drained n :=
  ⟨hF.rob, fun _ he => hF.rs_empty he, hF.fu, fun i => by rw [hF.clean], hF.fetchStopped, hF.jalrWait⟩

theorem Flushed.lsqAt (i : Nat) : n.lsqAt i = b.lsqAt i := by rw [Bank.lsqAt, hF.lsq]; rfl

include hI

theorem Flushed.truncated :
    n.lsqTail < c.lsqSize ∧ b.lsqAge c n.lsqTail ≤ b.lsqAge c b.lsqTail
      ∧ ∀ j < c.lsqSize, b.lsqAge c j < b.lsqAge c n.lsqTail → (b.lsqAt j).committedStore = true := by
  have h0 := lsqAge_head hI.shaped.lsqHeadIn
  rw [hF.lsqTail]
  refine truncateFrom_spec hI.shaped _ hI.shaped.lsqHeadIn ?_ ?_
  · rw [h0]
    exact Nat.zero_le _
  · rw [h0]
    exact fun j _ h => absurd h (Nat.not_lt_zero _)

/-- After a flush the queue holds committed stores alone, and they were in it before (R283). -/
theorem Flushed.committed {i : Nat} (hi : i < c.lsqSize) (ho : n.lsqOccupied c i = true) :
    b.lsqOccupied c i = true ∧ (b.lsqAt i).committedStore = true := by
  obtain ⟨-, hle, hc⟩ := hF.truncated hI
  have hlt : b.lsqAge c i < b.lsqAge c n.lsqTail := by
    have := (lsqOccupied_iff_age hi).mp ho
    unfold Bank.lsqAge at this ⊢
    rwa [hF.lsqHead] at this
  exact ⟨(lsqOccupied_iff_age hi).mpr (Nat.lt_of_lt_of_le hlt hle), hc i hi hlt⟩

theorem Flushed.queueOk : QueueOk c n := by
  have hc {i : Nat} (hi : i < c.lsqSize) (ho : n.lsqOccupied c i = true) : (n.lsqAt i).committedStore = true := by
    rw [hF.lsqAt]
    exact (hF.committed hI hi ho).2
  have hstore {i : Nat} (hi : i < c.lsqSize) (ho : n.lsqOccupied c i = true) : ¬(n.lsqAt i).type.isLoad = true :=
    fun hl => absurd (hl.symm.trans (LsqType.isStore_iff.mp (committedStore_iff.mp (hc hi ho)).1)) (by decide)
  constructor
  case slots =>
    intro i hi ho
    obtain ⟨hb, hcom⟩ := hF.committed hI hi ho
    obtain ⟨hbase, hval⟩ := (hI.queue.slots i hi hb).committed hcom
    rw [← hF.lsqAt] at hbase hval
    exact {
      load := fun hl => absurd hl (hstore hi ho)
      pendingStore := fun _ hr => absurd (hr.symm.trans (committedStore_iff.mp (hc hi ho)).2) (by decide)
      committed := fun _ => ⟨hbase, hval⟩
      waitBase := fun hw => absurd (hbase.symm.trans hw) (by decide)
      waitValue := fun hw => absurd (hval.symm.trans hw) (by decide) }
  case committedPrefix => exact fun i hi _ _ hio _ _ _ => hc hi hio
  case programOrder =>
    exact fun i hi _ _ hio _ _ hu _ => absurd (hu.symm.trans (hc hi hio)) (by decide)
  case memoryWriteNamesStore => exact fun t ht => absurd ht (not_robOccupied_of_empty hF.rob t)
  case apartFromStation => exact fun i hi ho hl => absurd hl (hstore hi ho)
  case inflightReady =>
    intro h
    obtain ⟨hne, hb⟩ := hF.inflight h
    rw [Bank.lsqEmpty, hF.lsqHead, hF.lsqAt]
    exact ⟨beq_eq_false_iff_ne.mpr hne, (hI.queue.inflightReady hb).2⟩
  case countBounded => exact hF.count hI.queue.countBounded

/-- A flush keeps the invariant of the bank. -/
theorem Flushed.bankInv : BankInv c n := by
  refine hF.drained.bankInv hI.valid ⟨?_, ?_, ?_, (hF.truncated hI).1⟩ ?_ (fun e he => ?_) (hF.queueOk hI)
  · rw [hF.rs, List.length_map, hI.shaped.rsLength]
  · rw [hF.lsq, hI.shaped.lsqLength]
  · rw [hF.lsqHead]
    exact hI.shaped.lsqHeadIn
  · rw [hF.clean]
    exact hI.zero.1
  · obtain ⟨e', he', rfl⟩ := hF.rs_old he
    exact hI.station.busyIff e' he'

end

/-- The clock is no part of the invariant. -/
theorem BankInv.clock {c : Config} {b : Bank} (h : BankInv c b) (k : Nat) : BankInv c { b with clock := k } where
  valid := h.valid
  shaped := { h.shaped with }
  zero := h.zero
  rat := { h.rat with }
  station := { h.station with }
  units := { h.units with }
  queue := { h.queue with slots := fun i hi ho => { h.queue.slots i hi ho with } }
  owners := { h.owners with }
  fetch := { h.fetch with }

/-! ### Every step -/

theorem step_cfg {s t : State} (h : step s = .next t) : t.cfg = s.cfg := by
  obtain ⟨-, s1, s2, s3, h1, h2, h3, rfl⟩ := step_cases h
  obtain ⟨-, -, -, g2, -⟩ := step_units_cur h1 h2
  have hend : (endCycle s3).cfg = s3.cfg := by unfold endCycle; split <;> rfl
  rw [hend, (commitStep_keeps h3).1, rsStep_cfg, g2]

/-- Every step keeps memory canonical: it changes by at most one store's access. -/
theorem step_memory_wf {s t : State} (hm : Memory.wf s.mem) (h : step s = .next t) : Memory.wf t.mem := by
  obtain ⟨-, s1, s2, s3, h1, h2, h3, rfl⟩ := step_cases h
  obtain ⟨-, -, -, -, m2⟩ := step_units_cur h1 h2
  have hend : (endCycle s3).mem = s3.mem := by unfold endCycle; split <;> rfl
  rw [hend, (commitStep_keeps h3).2.2, rsStep_mem, m2]
  rcases (lsqStep_frame h1).mem with he | ⟨-, -, -, he⟩
  · rw [he]; exact hm
  · rw [he]; exact storeEffect_wf hm _

theorem truncateLsq_pred (c : Config) (b : Bank) : (truncateLsq c b).pred = b.pred := by rw [truncateLsq_eq]

/-- The commit step trains at most one bucket. -/
theorem commitStep_predictor_wf {s t : State} (hp : Predictor.Wf s.nxt.pred) (h : commitStep s = .next t) :
    Predictor.Wf t.nxt.pred := by
  rcases commitStep_cases h with ⟨-, rfl⟩ | ⟨-, -, ⟨-, h⟩ | ⟨-, h⟩ | ⟨-, h⟩ | ⟨-, h⟩⟩
  · exact hp
  · cases h
    rw [robPop_nxt, regWrite_nxt]
    exact hp
  · obtain ⟨-, rfl⟩ := commitStore_eq_next h
    exact hp
  · have hu (a : Word) (o : Bool) : Predictor.Wf (predUpdate a o s).nxt.pred := by
      rw [predUpdate_nxt]
      exact predictor_put_wf hp ..
    rcases commitBranch_cases h with rfl | rfl
    · exact hu ..
    · rw [flushMispredicted_nxt, flushBank, truncateLsq_pred]
      exact hu ..
  · cases h
    exact hp

theorem step_predictor_wf {s t : State} (hp : Predictor.Wf s.cur.pred) (h : step s = .next t) :
    Predictor.Wf t.cur.pred := by
  obtain ⟨-, s1, s2, s3, h1, h2, h3, rfl⟩ := step_cases h
  obtain ⟨-, c2, -, -, -⟩ := step_units_cur h1 h2
  have hn : s2.nxt.pred = s.cur.pred :=
    (fetchStep_frame h2).pred.trans (congrArg (·.pred) (lsqStep_frame h1).nxt)
  have h3n := commitStep_predictor_wf (s := rsStep s2) (show Predictor.Wf s2.nxt.pred from hn ▸ hp) h3
  have hcur : s3.cur = s.cur := (commitStep_keeps h3).2.1.trans c2
  unfold endCycle
  split
  · exact h3n
  · show Predictor.Wf s3.cur.pred
    rw [hcur]; exact hp
  · show Predictor.Wf s3.cur.pred
    rw [hcur]; exact hp

/-- Every step keeps the invariant of the current bank. -/
theorem step_bankInv {s t : State} (hI : BankInv s.cfg s.cur) (h : step s = .next t) : BankInv s.cfg t.cur := by
  rcases step_advance hI.rat h with hc | ⟨st, hst, ⟨pop, hA⟩ | ⟨m, i, a, k, hA, hn⟩⟩
  · rw [hc]; exact hI
  · exact hA.bankInv hI hst
  · rw [hn]
    exact ((flushBank_flushed s.cfg i a m).bankInv (hA.bankInv hI hst)).clock k

/-- Settles O50: a step halts on the current bank, advances it or flushes it, and each keeps the invariant. -/
theorem stepKeepsInv : Obligations.StepKeepsInv := by
  intro s t hI h
  have hb := step_bankInv hI.bank h
  rw [← step_cfg h] at hb
  exact hb.inv (step_memory_wf hI.memory h) (step_predictor_wf hI.predictor h)

/-! ### Reset -/

theorem queueOk_of_empty {c : Config} {b : Bank} (hq : b.lsqHead = b.lsqTail) (hr : b.robHead = b.robTail)
    (hi : b.lsqInflight = false) (hc : b.lsqCount ≤ 2#2) : QueueOk c b := by
  have hno (i : Nat) : ¬b.lsqOccupied c i = true := by simp [Bank.lsqOccupied, Bank.lsqCountOcc, Bank.lsqAge, ← hq]
  exact {
    slots := fun i _ h => absurd h (hno i)
    committedPrefix := fun i _ _ _ h => absurd h (hno i)
    programOrder := fun i _ _ _ h => absurd h (hno i)
    memoryWriteNamesStore := fun t h => absurd h (not_robOccupied_of_empty hr t)
    apartFromStation := fun i _ h => absurd h (hno i)
    inflightReady := fun h => absurd (hi.symm.trans h) (by decide)
    countBounded := hc }

theorem resetWith_bankInv {c : Config} (hv : c.Valid) : BankInv c (Bank.resetWith c) := by
  have hrs {e : RsEntry} (he : e ∈ (Bank.resetWith c).rs) : e = RsEntry.reset := (List.mem_replicate.mp he).2
  have hd : Drained (Bank.resetWith c) :=
    ⟨rfl, fun e he => by rw [hrs he]; rfl, rfl, fun i => by simp [Bank.resetWith, RegEntry.reset], rfl, rfl⟩
  have hpos : 0 < c.lsqSize := Nat.lt_of_lt_of_le Nat.zero_lt_two hv.2.1
  exact hd.bankInv hv ⟨List.length_replicate, List.length_replicate, hpos, hpos⟩
    (by simp [Bank.resetWith, RegEntry.reset]) (fun e he => by rw [hrs he]; rfl)
    (queueOk_of_empty rfl rfl rfl (by simp [Bank.resetWith]))

/-- Settles O47: after a reset nothing is in flight, and memory is what the host loaded. -/
theorem resetEstablishesInv : Obligations.ResetEstablishesInv := by
  intro s hv hm
  have hb : BankInv s.applyReset.cfg s.applyReset.cur := resetWith_bankInv hv
  exact hb.inv hm ⟨.nil, nofun⟩

/-! ### How a run ends -/

/-- Only the commit of END changes the status (R27, R321). -/
theorem commitStep_status {s t : State} (h : commitStep s = .next t) :
    t.status = s.status ∨ ∃ code, t.status = .halted code := by
  rcases commitStep_cases h with ⟨-, rfl⟩ | ⟨-, -, ⟨-, h⟩ | ⟨-, h⟩ | ⟨-, h⟩ | ⟨-, h⟩⟩
  · exact .inl rfl
  · cases h
    exact .inl (by simp)
  · obtain ⟨-, rfl⟩ := commitStore_eq_next h
    exact .inl rfl
  · rcases commitBranch_cases h with rfl | rfl
    · exact .inl (by simp)
    · exact .inl (by simp)
  · cases h
    exact .inr ⟨_, rfl⟩

theorem endCycle_status (s : State) : (endCycle s).status = s.status := by
  unfold endCycle
  split <;> rfl

theorem step_status {s t : State} (h : step s = .next t) :
    s.status = .running ∧ (t.status = .running ∨ ∃ code, t.status = .halted code) := by
  obtain ⟨hs, s1, s2, s3, h1, h2, h3, rfl⟩ := step_cases h
  have hrun : (rsStep s2).status = .running := by
    rw [rsStep_status, (fetchStep_frame h2).status, (lsqStep_frame h1).status]
    exact hs
  rw [endCycle_status, ← hrun]
  exact ⟨hs.trans hrun.symm, commitStep_status h3⟩

theorem step_of_lsq_fault {s : State} {f : Fault} (hs : s.status = .running)
    (h : lsqStep (beginCycle s) = .fault f) : step s = .fault f := by
  simp [step, cycle, hs, computePhase, h]

/-- A fault of the fetch step ends the cycle before the commit step (R135). -/
theorem step_of_fetch_fault {s s1 : State} {f : Fault} (hs : s.status = .running)
    (h1 : lsqStep (beginCycle s) = .next s1) (h : fetchStep s1 = .fault f) : step s = .fault f := by
  simp [step, cycle, hs, computePhase, h1, h]

/-- The range check reports the first byte at or beyond `MEM_SIZE` (R70). -/
theorem outOfRange_eq_some {c : Config} {a : Word} {n i : Nat} (hi : i < n)
    (hout : c.memSize ≤ (a + BitVec.ofNat 32 i).toNat)
    (hin : ∀ j < i, (a + BitVec.ofNat 32 j).toNat < c.memSize) :
    outOfRange c a n = some (a + BitVec.ofNat 32 i).toNat := by
  have hfind : (List.range n).find? (fun k => decide (c.memSize ≤ (a + BitVec.ofNat 32 k).toNat)) = some i :=
    List.find?_range_eq_some.mpr ⟨by simpa using hout, by simpa using hi, fun j hj => by simpa using hin j hj⟩
  unfold outOfRange
  rw [List.find?_map]
  exact congrArg (Option.map _) hfind

theorem fetchStep_outOfRange {s : State} {x : Nat} (hs : s.cur.fetchStopped = false)
    (hw : s.cur.jalrWait.valid = false) (hf : s.cur.robFull = false) (hx : outOfRange s.cfg s.cur.pc 4 = some x) :
    fetchStep s = .fault (.fatal (.memRange x)) := by
  simp [fetchStep, fetchDispatch, raiseFatal, hs, hw, hf, hx]

/-- Settles O40. -/
theorem howARunEnds : Obligations.HowARunEnds := by
  intro s
  refine ⟨fun t h => step_status h, fun code h => by simp [step, cycle, h], fun reason h => by simp [step, cycle, h],
    rfl, rfl, fun hs => ⟨fun f h => step_of_lsq_fault hs h, fun s1 h1 =>
      ⟨fun f h => step_of_fetch_fault hs h1 h, ?_⟩⟩⟩
  intro hstop hwait hfull i hi hout hin
  have f1 := lsqStep_frame h1
  have hcur : s1.cur = s.cur := f1.cur
  have hcfg : s1.cfg = s.cfg := f1.cfg
  refine step_of_fetch_fault hs h1 (fetchStep_outOfRange (by rwa [hcur]) (by rwa [hcur]) (by rwa [hcur]) ?_)
  rw [hcur, hcfg]
  exact outOfRange_eq_some hi hout hin

end Sys2Proof.Machine
end

section
/-! PROOFS of the family 20_memory.md: the byte order of reads and fetch (O5), what a write sets and leaves alone (O6),
and the one way a cycle changes memory, the access of the store at the head of the queue, as a whole step shows it
(O30) and as the fetch of the same cycle sees it (O60). -/

namespace Sys2Proof.Machine

/-! ### Reads, byte by byte (R62) -/

theorem memRead2_byte (m : Memory) (a : Word) {i : Nat} (hi : i < 2) :
    (memRead2 m a).extractLsb' (8 * i) 8 = readByte m (a + BitVec.ofNat 32 i) := by
  have low : (memRead2 m a).extractLsb' 0 8 = readByte m a := BitVec.extractLsb'_append_eq_right
  match i, hi with
  | 0, _ => simpa using low
  | 1, _ => exact BitVec.extractLsb'_append_eq_left

/-- Byte `i` of a word counts from its least significant end: each byte below it is one append to drop. -/
theorem wordOfBytes_byte (b : Nat → Byte) {i : Nat} (hi : i < 4) :
    (wordOfBytes (b 0) (b 1) (b 2) (b 3)).extractLsb' (8 * i) 8 = b i := by
  have drop0 (n : Nat) (hn : 8 ≤ n) : (wordOfBytes (b 0) (b 1) (b 2) (b 3)).extractLsb' n 8
      = (b 3 ++ b 2 ++ b 1).extractLsb' (n - 8) 8 := BitVec.extractLsb'_append_eq_of_le hn
  have drop1 (n : Nat) (hn : 8 ≤ n) : (b 3 ++ b 2 ++ b 1).extractLsb' n 8 = (b 3 ++ b 2).extractLsb' (n - 8) 8 :=
    BitVec.extractLsb'_append_eq_of_le hn
  match i, hi with
  | 0, _ => exact BitVec.extractLsb'_append_eq_right
  | 1, _ => exact (drop0 8 (by decide)).trans BitVec.extractLsb'_append_eq_right
  | 2, _ => exact (drop0 16 (by decide)).trans ((drop1 8 (by decide)).trans BitVec.extractLsb'_append_eq_right)
  | 3, _ => exact (drop0 24 (by decide)).trans ((drop1 16 (by decide)).trans BitVec.extractLsb'_append_eq_left)

theorem memRead4_byte (m : Memory) (a : Word) {i : Nat} (hi : i < 4) :
    (memRead4 m a).extractLsb' (8 * i) 8 = readByte m (a + BitVec.ofNat 32 i) := by
  simpa [memRead4] using wordOfBytes_byte (fun k => readByte m (a + BitVec.ofNat 32 k)) hi

theorem fetchWord_byte (s : State) {i : Nat} (hi : i < 4) :
    (fetchWord s).extractLsb' (8 * i) 8 = readByte s.mem (s.cur.pc + BitVec.ofNat 32 i) :=
  memRead4_byte s.mem s.cur.pc hi

theorem fetchWord_lowByte (s : State) : (fetchWord s).extractLsb' 0 8 = readByte s.mem s.cur.pc := by
  simpa using fetchWord_byte s (i := 0) (by decide)

/-- The opcode lies within the low byte of a word (R91). -/
theorem opcodeOf_lowByte (w : Word) : opcodeOf w = (w.extractLsb' 0 8).extractLsb' 0 7 :=
  (BitVec.extractLsb'_extractLsb'_of_le (by decide)).symm

/-- Bit 0 of `rd` is the top bit of the low byte of a word (R91). -/
theorem rdOf_lowByte (w : Word) : (rdOf w).getLsbD 0 = (w.extractLsb' 0 8).getLsbD 7 := by
  simp [rdOf]

/-- Settles O5. -/
theorem readsAreLittleEndian : Obligations.ReadsAreLittleEndian := by
  intro m a s
  refine ⟨rfl, fun i hi => memRead2_byte m a hi, fun i hi => memRead4_byte m a hi, fun i hi => fetchWord_byte s hi,
    ?_, ?_⟩
  · rw [opcodeOf_lowByte, fetchWord_lowByte]
  · rw [rdOf_lowByte, fetchWord_lowByte]

/-! ### Writes, byte by byte (R63) -/

/-- A byte of the written range holds its part of the value: the writes after it go to other addresses, which do not
meet it as long as the range does not wrap onto itself. -/
theorem readByte_memWrite_inside {m : Memory} (hm : Memory.wf m) (a v : Word) {n i : Nat} (hn : n ≤ 2 ^ 32)
    (hi : i < n) : readByte (memWrite m a n v) (a + BitVec.ofNat 32 i) = v.extractLsb' (8 * i) 8 := by
  induction n with
  | zero => omega
  | succ n ih =>
    rw [memWrite]
    rcases Nat.lt_succ_iff_lt_or_eq.mp hi with hlt | rfl
    · have hne : a + BitVec.ofNat 32 i ≠ a + BitVec.ofNat 32 n := fun he =>
        hlt.ne (add_ofNat_inj (by omega) (by omega) he)
      rw [readByte_writeByte_ne _ _ hne]
      exact ih (by omega) hlt
    · exact readByte_writeByte_same (memWrite_wf hm _ _ _) _ _

/-- Settles O6. -/
theorem writesStoreTheirBytesOnly : Obligations.WritesStoreTheirBytesOnly := by
  intro m a v n hm hn
  exact ⟨fun i hi => readByte_memWrite_inside hm a v (by omega) hi,
    fun _ hb => readByte_memWrite_outside m a n v hb⟩

/-! ### Memory over the LSQ step (R280) -/

theorem LsqType.bytes_le (ty : LsqType) : ty.bytes ≤ 4 := by cases ty <;> decide

/-- The head of the queue is a store whose access is performed in this cycle, and `x` is the address of its byte
`i`. -/
structure Bank.StoresByte (b : Bank) (i : Nat) (x : Word) : Prop where
  performs : b.performs = true
  isStore : (b.lsqAt b.lsqHead).type.isStore = true
  inAccess : i < (b.lsqAt b.lsqHead).type.bytes
  address : x = (b.lsqAt b.lsqHead).addr + BitVec.ofNat 32 i

/-- Of the pipeline's four cases (R280) only the access may write memory, and only a store's does. -/
theorem lsqStep_mem {s t : State} (h : lsqStep s = .next t) :
    t.mem = if s.cur.performs = true ∧ (s.cur.lsqAt s.cur.lsqHead).type.isStore = true
      then storeEffect (s.cur.lsqAt s.cur.lsqHead) s.mem else s.mem := by
  have waits (hp : s.cur.lsqInflight = false ∨ s.cur.lsqCount ≠ 0#2) : s.cur.performs = false := by
    rcases hp with hp | hp <;> simp [Bank.performs, hp]
  rcases memPipeline_cases h with ⟨-, hc, rfl⟩ | ⟨hi, hc, -, rfl⟩ | ⟨hi, -, -, rfl⟩ | ⟨hi, -, rfl⟩
  · simp [waits (.inr hc)]
  · have hp : s.cur.performs = true := by simp_all [Bank.performs]
    simp [hp, performAccess_mem]
  · simp [waits (.inl hi)]
  · simp [waits (.inl hi)]

theorem lsqStep_readByte_stored {s t : State} {i : Nat} {x : Word} (hm : Memory.wf s.mem)
    (h : lsqStep (beginCycle s) = .next t) (hx : s.cur.StoresByte i x) :
    readByte t.mem x = (s.cur.lsqAt s.cur.lsqHead).value.extractLsb' (8 * i) 8 := by
  obtain ⟨hp, hs, hi, rfl⟩ := hx
  rw [lsqStep_mem h, if_pos ⟨hp, hs⟩]
  exact readByte_memWrite_inside hm _ _ ((LsqType.bytes_le _).trans (by decide)) hi

theorem lsqStep_readByte_kept {s t : State} {x : Word} (h : lsqStep (beginCycle s) = .next t)
    (hx : ∀ i, ¬s.cur.StoresByte i x) : readByte t.mem x = readByte s.mem x := by
  rw [lsqStep_mem h]
  split
  · next hps => exact readByte_memWrite_outside _ _ _ _ fun i hi he => hx i ⟨hps.1, hps.2, hi, he⟩
  · rfl

/-! ### Memory over a whole step (R72, R73) -/

@[simp] theorem endCycle_mem (s : State) : (endCycle s).mem = s.mem := by unfold endCycle; split <;> rfl

/-- After the LSQ step no unit writes memory (R130, R133). -/
theorem step_mem {s t : State} (h : step s = .next t) :
    ∃ s1, lsqStep (beginCycle s) = .next s1 ∧ t.mem = s1.mem := by
  obtain ⟨-, s1, s2, s3, h1, h2, h3, rfl⟩ := step_cases h
  refine ⟨s1, h1, ?_⟩
  rw [endCycle_mem, (commitStep_keeps h3).2.2, rsStep_mem, (fetchStep_frame h2).mem]

/-- Settles O30: the LSQ step is the only one that writes memory (`step_mem`), and by the invariant an access is under
way only for a ready head, which for a store means a committed one. -/
theorem memoryChangesOnlyByCommittedStores : Obligations.MemoryChangesOnlyByCommittedStores := by
  intro s t hI hstep
  obtain ⟨s1, h1, hmem⟩ := step_mem hstep
  rw [hmem]
  constructor
  · intro x hne
    obtain ⟨i, hx⟩ : ∃ i, s.cur.StoresByte i x := by
      by_contra hnone
      exact hne (lsqStep_readByte_kept h1 (not_exists.mp hnone))
    obtain ⟨-, hready, -⟩ := performs_head hI.bank hx.performs
    exact ⟨hx.performs, hx.isStore, hready, i, hx.inAccess, hx.address⟩
  · intro hp hs i hi
    exact lsqStep_readByte_stored hI.memory h1 ⟨hp, hs, hi, rfl⟩

/-! ### What a fetch sees (R75, R78) -/

/-- Settles O60: the fetch reads the memory that the LSQ step of its cycle leaves, at the pc of the current copy. -/
theorem fetchSeesStoresOnlyWhenPerformed : Obligations.FetchSeesStoresOnlyWhenPerformed := by
  intro s s1 hm h1 h a i hi
  have hcur : s1.cur = s.cur := (lsqStep_frame h1).cur
  rw [fetchWord_byte s1 hi, hcur]
  constructor
  · intro j hj hp hs he
    exact lsqStep_readByte_stored hm h1 ⟨hp, hs, hj, he⟩
  · intro hnone
    exact lsqStep_readByte_kept h1 fun j hx => hnone hx.performs hx.isStore j hx.inAccess hx.address

end Sys2Proof.Machine
end

section
/-! PROOFS of the family 30_encoding.md. The decoder and the encoder agree on every word that is not `END_WORD`:
`decodeRv32i w = .ok i` says that `w` is the word of the instruction `i` (`decodeRv32i_ok_iff`). The round trips (O1,
O2) are its two directions; that the decoder follows the table of R109 (O3) adds which fields each row checks. -/

namespace Sys2Proof

/-! ### The fields of an encoded word (R91 to R98) -/

section
variable (funct7 op : BitVec 7) (rs2 rs1 rd : Reg) (funct3 : BitVec 3)

@[simp] theorem rType_fields :
    opcodeOf (rType funct7 rs2 rs1 funct3 rd op) = op ∧ rdOf (rType funct7 rs2 rs1 funct3 rd op) = rd
    ∧ funct3Of (rType funct7 rs2 rs1 funct3 rd op) = funct3 ∧ rs1Of (rType funct7 rs2 rs1 funct3 rd op) = rs1
    ∧ rs2Of (rType funct7 rs2 rs1 funct3 rd op) = rs2 ∧ shamtOf (rType funct7 rs2 rs1 funct3 rd op) = rs2
    ∧ funct7Of (rType funct7 rs2 rs1 funct3 rd op) = funct7 := by
  simp (disch := omega) only [rType, opcodeOf, rdOf, funct3Of, rs1Of, rs2Of, shamtOf, funct7Of, and_self,
    BitVec.extractLsb'_append_eq_of_le, BitVec.extractLsb'_append_eq_of_add_le, BitVec.extractLsb'_eq_self,
    Nat.reduceSub]

@[simp] theorem iType_fields (imm : BitVec 12) :
    opcodeOf (iType imm rs1 funct3 rd op) = op ∧ rdOf (iType imm rs1 funct3 rd op) = rd
    ∧ funct3Of (iType imm rs1 funct3 rd op) = funct3 ∧ rs1Of (iType imm rs1 funct3 rd op) = rs1
    ∧ immIOf (iType imm rs1 funct3 rd op) = imm := by
  simp (disch := omega) only [iType, opcodeOf, rdOf, funct3Of, rs1Of, immIOf, and_self,
    BitVec.extractLsb'_append_eq_of_le, BitVec.extractLsb'_append_eq_of_add_le, BitVec.extractLsb'_eq_self,
    Nat.reduceSub]

@[simp] theorem sType_fields (imm : BitVec 12) :
    opcodeOf (sType imm rs2 rs1 funct3 op) = op ∧ funct3Of (sType imm rs2 rs1 funct3 op) = funct3
    ∧ rs1Of (sType imm rs2 rs1 funct3 op) = rs1 ∧ rs2Of (sType imm rs2 rs1 funct3 op) = rs2
    ∧ immSOf (sType imm rs2 rs1 funct3 op) = imm := by
  simp (disch := omega) only [sType, opcodeOf, funct3Of, rs1Of, rs2Of, immSOf, and_self,
    BitVec.extractLsb'_append_eq_of_le, BitVec.extractLsb'_append_eq_of_add_le, BitVec.extractLsb'_eq_self,
    BitVec.extractLsb'_append_extractLsb'_eq_extractLsb', Nat.reduceSub]

@[simp] theorem uType_fields (imm : BitVec 20) :
    opcodeOf (uType imm rd op) = op ∧ rdOf (uType imm rd op) = rd ∧ immUOf (uType imm rd op) = imm := by
  simp (disch := omega) only [uType, opcodeOf, rdOf, immUOf, and_self, BitVec.extractLsb'_append_eq_of_le,
    BitVec.extractLsb'_append_eq_of_add_le, BitVec.extractLsb'_eq_self, Nat.reduceSub]

/-- The B format keeps every bit of the offset but bit 0 (R95, R102). -/
@[simp] theorem bType_fields (imm : BitVec 13) :
    opcodeOf (bType imm rs2 rs1 funct3 op) = op ∧ funct3Of (bType imm rs2 rs1 funct3 op) = funct3
    ∧ rs1Of (bType imm rs2 rs1 funct3 op) = rs1 ∧ rs2Of (bType imm rs2 rs1 funct3 op) = rs2
    ∧ immBOf (bType imm rs2 rs1 funct3 op) = imm.extractLsb' 1 12 ++ 0#1 := by
  simp (disch := omega) only [bType, opcodeOf, funct3Of, rs1Of, rs2Of, immBOf, and_self,
    BitVec.extractLsb'_append_eq_of_le, BitVec.extractLsb'_append_eq_of_add_le, BitVec.extractLsb'_eq_self,
    BitVec.extractLsb'_append_extractLsb'_eq_extractLsb', Nat.reduceSub]

/-- The J format keeps every bit of the offset but bit 0 (R98, R104). -/
@[simp] theorem jType_fields (imm : BitVec 21) :
    opcodeOf (jType imm rd op) = op ∧ rdOf (jType imm rd op) = rd
    ∧ immJOf (jType imm rd op) = imm.extractLsb' 1 20 ++ 0#1 := by
  simp (disch := omega) only [jType, opcodeOf, rdOf, immJOf, and_self, BitVec.extractLsb'_append_eq_of_le,
    BitVec.extractLsb'_append_eq_of_add_le, BitVec.extractLsb'_eq_self,
    BitVec.extractLsb'_append_extractLsb'_eq_extractLsb', Nat.reduceSub]

end

/-- An even offset loses nothing when its bit 0 is not encoded. -/
theorem extractLsb'_append_zero_of_even {n : Nat} {x : BitVec (n + 1)} (h : x.getLsbD 0 = false) :
    x.extractLsb' 1 n ++ 0#1 = x := by
  have low : x.extractLsb' 0 1 = 0#1 := by
    ext i hi
    simpa [show i = 0 by omega] using h
  rw [← low]
  exact BitVec.extractLsb'_append_extractLsb'

@[simp] theorem immBOf_even (w : Word) : (immBOf w).getLsbD 0 = false := by
  rw [immBOf, BitVec.getLsbD_append]; rfl

@[simp] theorem immJOf_even (w : Word) : (immJOf w).getLsbD 0 = false := by
  rw [immJOf, BitVec.getLsbD_append]; rfl

/-! ### A word is the encoding of its fields -/

section
variable {w : Word} {op funct7 : BitVec 7} {funct3 : BitVec 3}

theorem rType_of_fields (hop : opcodeOf w = op) (h3 : funct3Of w = funct3) (h7 : funct7Of w = funct7) :
    rType funct7 (rs2Of w) (rs1Of w) funct3 (rdOf w) op = w := by
  subst hop h3 h7
  simp (disch := omega) only [rType, funct7Of, rs2Of, rs1Of, funct3Of, rdOf, opcodeOf,
    BitVec.extractLsb'_append_extractLsb'_eq_extractLsb', BitVec.extractLsb'_eq_self]

theorem iType_of_fields (hop : opcodeOf w = op) (h3 : funct3Of w = funct3) :
    iType (immIOf w) (rs1Of w) funct3 (rdOf w) op = w := by
  subst hop h3
  simp (disch := omega) only [iType, immIOf, rs1Of, funct3Of, rdOf, opcodeOf,
    BitVec.extractLsb'_append_extractLsb'_eq_extractLsb', BitVec.extractLsb'_eq_self]

theorem sType_of_fields (hop : opcodeOf w = op) (h3 : funct3Of w = funct3) :
    sType (immSOf w) (rs2Of w) (rs1Of w) funct3 op = w := by
  subst hop h3
  simp (disch := omega) only [sType, immSOf, rs2Of, rs1Of, funct3Of, opcodeOf,
    BitVec.extractLsb'_append_eq_of_le, BitVec.extractLsb'_append_eq_of_add_le, Nat.reduceSub,
    BitVec.extractLsb'_append_extractLsb'_eq_extractLsb', BitVec.extractLsb'_eq_self]

theorem bType_of_fields (hop : opcodeOf w = op) (h3 : funct3Of w = funct3) :
    bType (immBOf w) (rs2Of w) (rs1Of w) funct3 op = w := by
  subst hop h3
  simp (disch := omega) only [bType, immBOf, rs2Of, rs1Of, funct3Of, opcodeOf,
    BitVec.extractLsb'_append_eq_of_le, BitVec.extractLsb'_append_eq_of_add_le, Nat.reduceSub,
    BitVec.extractLsb'_append_extractLsb'_eq_extractLsb', BitVec.extractLsb'_eq_self]

theorem uType_of_fields (hop : opcodeOf w = op) : uType (immUOf w) (rdOf w) op = w := by
  subst hop
  simp (disch := omega) only [uType, immUOf, rdOf, opcodeOf,
    BitVec.extractLsb'_append_extractLsb'_eq_extractLsb', BitVec.extractLsb'_eq_self]

theorem jType_of_fields (hop : opcodeOf w = op) : jType (immJOf w) (rdOf w) op = w := by
  subst hop
  simp (disch := omega) only [jType, immJOf, rdOf, opcodeOf,
    BitVec.extractLsb'_append_eq_of_le, BitVec.extractLsb'_append_eq_of_add_le, Nat.reduceSub,
    BitVec.extractLsb'_append_extractLsb'_eq_extractLsb', BitVec.extractLsb'_eq_self]

end

/-! ### The decoder reads exactly the words the encoder writes (R106, R107) -/

/-- `i` is a well-formed instruction other than END, and `w` is its word, whatever `END_WORD` is. -/
structure Instr.HasWord (i : Instr) (w : Word) : Prop where
  notEnd : i ≠ .endProg
  wellFormed : i.wellFormed = true
  word : ∀ endWord, encode endWord i = w

theorem decodeRv32i_of_hasWord {i : Instr} {w : Word} (h : i.HasWord w) : decodeRv32i w = .ok i := by
  obtain ⟨hne, hwf, hw⟩ := h
  obtain rfl := hw 0#32
  cases i with
  | endProg => exact absurd rfl hne
  | lui | auipc | jalr => simp [encode, decodeRv32i]
  | jal rd imm =>
    have even := extractLsb'_append_zero_of_even (by simpa [Instr.wellFormed] using hwf)
    simp [encode, decodeRv32i, even]
  | beq _ _ imm | bne _ _ imm | blt _ _ imm | bge _ _ imm | bltu _ _ imm | bgeu _ _ imm =>
    have even := extractLsb'_append_zero_of_even (by simpa [Instr.wellFormed] using hwf)
    simp [encode, decodeRv32i, decodeBranch, even]
  | lb | lh | lw | lbu | lhu => simp [encode, decodeRv32i, decodeLoad]
  | sb | sh | sw => simp [encode, decodeRv32i, decodeStore]
  | addi | slti | sltiu | xori | ori | andi | slli | srli | srai => simp [encode, decodeRv32i, decodeOpImm]
  | add | sub | sll | slt | sltu | xor | srl | sra | or | and => simp [encode, decodeRv32i, decodeOp]

section
variable {i : Instr} {w : Word}

theorem hasWord_of_decodeBranch (hop : opcodeOf w = 0b1100011#7) (h : decodeBranch w = .ok i) : i.HasWord w := by
  unfold decodeBranch at h
  iterate 6
    obtain ⟨h3, ⟨⟩⟩ | ⟨-, h⟩ := ite_eq_iff.mp h
    · exact ⟨nofun, by simp only [Instr.wellFormed, immBOf_even, Bool.not_false], fun _ => bType_of_fields hop h3⟩
  cases h

theorem hasWord_of_decodeLoad (hop : opcodeOf w = 0b0000011#7) (h : decodeLoad w = .ok i) : i.HasWord w := by
  unfold decodeLoad at h
  iterate 5
    obtain ⟨h3, ⟨⟩⟩ | ⟨-, h⟩ := ite_eq_iff.mp h
    · exact ⟨nofun, rfl, fun _ => iType_of_fields hop h3⟩
  cases h

theorem hasWord_of_decodeStore (hop : opcodeOf w = 0b0100011#7) (h : decodeStore w = .ok i) : i.HasWord w := by
  unfold decodeStore at h
  iterate 3
    obtain ⟨h3, ⟨⟩⟩ | ⟨-, h⟩ := ite_eq_iff.mp h
    · exact ⟨nofun, rfl, fun _ => sType_of_fields hop h3⟩
  cases h

/-- The right shifts are read once every other `funct3` is excluded (R109). -/
theorem hasWord_of_decodeOpImm (hop : opcodeOf w = 0b0010011#7) (h : decodeOpImm w = .ok i) : i.HasWord w := by
  unfold decodeOpImm at h
  iterate 6
    obtain ⟨h3, ⟨⟩⟩ | ⟨h3, h⟩ := ite_eq_iff.mp h
    · exact ⟨nofun, rfl, fun _ => iType_of_fields hop h3⟩
  obtain ⟨h3, h⟩ | ⟨h3, h⟩ := ite_eq_iff.mp h
  · obtain ⟨h7, ⟨⟩⟩ | ⟨-, ⟨⟩⟩ := ite_eq_iff.mp h
    exact ⟨nofun, rfl, fun _ => rType_of_fields hop h3 h7⟩
  · have h5 : funct3Of w = 0b101#3 := by bv_omega
    iterate 2
      obtain ⟨h7, ⟨⟩⟩ | ⟨-, h⟩ := ite_eq_iff.mp h
      · exact ⟨nofun, rfl, fun _ => rType_of_fields hop h5 h7⟩
    cases h

/-- AND is read once every other `funct3` is excluded (R109). -/
theorem hasWord_of_decodeOp (hop : opcodeOf w = 0b0110011#7) (h : decodeOp w = .ok i) : i.HasWord w := by
  unfold decodeOp at h
  obtain ⟨h7, h⟩ | ⟨-, h⟩ := ite_eq_iff.mp h
  · iterate 7
      obtain ⟨h3, ⟨⟩⟩ | ⟨h3, h⟩ := ite_eq_iff.mp h
      · exact ⟨nofun, rfl, fun _ => rType_of_fields hop h3 h7⟩
    cases h
    exact ⟨nofun, rfl, fun _ => rType_of_fields hop (by bv_omega) h7⟩
  obtain ⟨h7, h⟩ | ⟨-, ⟨⟩⟩ := ite_eq_iff.mp h
  iterate 2
    obtain ⟨h3, ⟨⟩⟩ | ⟨-, h⟩ := ite_eq_iff.mp h
    · exact ⟨nofun, rfl, fun _ => rType_of_fields hop h3 h7⟩
  cases h

theorem hasWord_of_decodeRv32i (h : decodeRv32i w = .ok i) : i.HasWord w := by
  unfold decodeRv32i at h
  iterate 2
    obtain ⟨hop, ⟨⟩⟩ | ⟨-, h⟩ := ite_eq_iff.mp h
    · exact ⟨nofun, rfl, fun _ => uType_of_fields hop⟩
  obtain ⟨hop, ⟨⟩⟩ | ⟨-, h⟩ := ite_eq_iff.mp h
  · exact ⟨nofun, by simp only [Instr.wellFormed, immJOf_even, Bool.not_false], fun _ => jType_of_fields hop⟩
  obtain ⟨hop, h⟩ | ⟨-, h⟩ := ite_eq_iff.mp h
  · obtain ⟨h3, ⟨⟩⟩ | ⟨-, ⟨⟩⟩ := ite_eq_iff.mp h
    exact ⟨nofun, rfl, fun _ => iType_of_fields hop h3⟩
  obtain ⟨hop, h⟩ | ⟨-, h⟩ := ite_eq_iff.mp h
  · exact hasWord_of_decodeBranch hop h
  obtain ⟨hop, h⟩ | ⟨-, h⟩ := ite_eq_iff.mp h
  · exact hasWord_of_decodeLoad hop h
  obtain ⟨hop, h⟩ | ⟨-, h⟩ := ite_eq_iff.mp h
  · exact hasWord_of_decodeStore hop h
  obtain ⟨hop, h⟩ | ⟨-, h⟩ := ite_eq_iff.mp h
  · exact hasWord_of_decodeOpImm hop h
  obtain ⟨hop, h⟩ | ⟨-, ⟨⟩⟩ := ite_eq_iff.mp h
  exact hasWord_of_decodeOp hop h

theorem decodeRv32i_ok_iff : decodeRv32i w = .ok i ↔ i.HasWord w :=
  ⟨hasWord_of_decodeRv32i, decodeRv32i_of_hasWord⟩

end

@[simp] theorem decode_endWord (endWord : Word) : decode endWord endWord = .ok .endProg := if_pos rfl

theorem decode_of_ne {endWord w : Word} (h : w ≠ endWord) : decode endWord w = decodeRv32i w := if_neg h

theorem Instr.decodable_iff {i : Instr} {endWord : Word} :
    i.decodable endWord = true ↔ i.wellFormed = true ∧ (i ≠ .endProg → encode endWord i ≠ endWord) := by
  simp [Instr.decodable, Instr.spellsEnd, or_iff_not_imp_left]

/-- END alone is encoded by way of `END_WORD` (R96). -/
theorem encode_eq_of_ne_endProg {i : Instr} (h : i ≠ .endProg) (e e' : Word) : encode e i = encode e' i := by
  cases i with
  | endProg => exact absurd rfl h
  | _ => rfl

/-- Settles O1: END by the comparison that comes first, the others by `decodeRv32i_of_hasWord`. -/
theorem decodeOfEncode : Obligations.DecodeOfEncode := by
  intro endWord i hi
  obtain ⟨hwf, hhidden⟩ := Instr.decodable_iff.mp hi
  by_cases hend : i = .endProg
  · subst hend
    exact decode_endWord endWord
  · have hword : i.HasWord (encode endWord i) :=
      ⟨hend, hwf, fun _ => encode_eq_of_ne_endProg hend _ _⟩
    rw [decode_of_ne (hhidden hend)]
    exact decodeRv32i_of_hasWord hword

/-- Settles O2: the other direction, `END_WORD` itself being END. -/
theorem encodeOfDecode : Obligations.EncodeOfDecode := by
  intro endWord w i h
  by_cases hw : w = endWord
  · subst hw
    obtain rfl : .endProg = i := by simpa using h
    exact ⟨rfl, by simp [Instr.decodable_iff, Instr.wellFormed]⟩
  · rw [decode_of_ne hw, decodeRv32i_ok_iff] at h
    exact ⟨h.word endWord, Instr.decodable_iff.mpr ⟨h.wellFormed, fun _ => by rwa [h.word endWord]⟩⟩

/-! ### The table of R109 by fields -/

/-- A row compares a word's `opcode`, `funct3` and `funct7` with its own, each under the row's mask (R109). -/
theorem OpRow.fields_of_spells {r : OpRow} {w : Word} (h : r.spells w = true) :
    opcodeOf w &&& opcodeOf r.mask = opcodeOf r.value ∧ funct3Of w &&& funct3Of r.mask = funct3Of r.value
    ∧ funct7Of w &&& funct7Of r.mask = funct7Of r.value := by
  have hv : w &&& r.mask = r.value := beq_iff_eq.mp h
  rw [← hv]
  exact ⟨BitVec.extractLsb'_and.symm, BitVec.extractLsb'_and.symm, BitVec.extractLsb'_and.symm⟩

/-- Every row checks the whole opcode; what else it checks, by the major opcodes of R108. -/
theorem opcodeTable_checks : ∀ r ∈ opcodeTable, opcodeOf r.mask = 127#7 ∧
    (opcodeOf r.value ∈ [0b0110111#7, 0b0010111#7, 0b1101111#7]
    ∨ funct3Of r.mask = 7#3 ∧
      (opcodeOf r.value = 0b1100111#7 ∧ funct3Of r.value = 0#3
      ∨ opcodeOf r.value = 0b1100011#7 ∧ funct3Of r.value ∈ [0#3, 1#3, 4#3, 5#3, 6#3, 7#3]
      ∨ opcodeOf r.value = 0b0000011#7 ∧ funct3Of r.value ∈ [0#3, 1#3, 2#3, 4#3, 5#3]
      ∨ opcodeOf r.value = 0b0100011#7 ∧ funct3Of r.value ∈ [0#3, 1#3, 2#3]
      ∨ opcodeOf r.value = 0b0010011#7 ∧ funct3Of r.value ∈ [0#3, 2#3, 3#3, 4#3, 6#3, 7#3]
      ∨ funct7Of r.mask = 127#7 ∧
        (opcodeOf r.value = 0b0010011#7 ∧ funct3Of r.value ∈ [1#3, 5#3] ∧ funct7Of r.value = 0#7
        ∨ opcodeOf r.value = 0b0010011#7 ∧ funct3Of r.value = 5#3 ∧ funct7Of r.value = 32#7
        ∨ opcodeOf r.value = 0b0110011#7 ∧ funct7Of r.value = 0#7
        ∨ opcodeOf r.value = 0b0110011#7 ∧ funct3Of r.value ∈ [0#3, 5#3] ∧ funct7Of r.value = 32#7))) := by
  decide

/-- The decoder accepts every word that a row spells: each group of rows checks the fields that its part of the decoder
compares. -/
theorem decodeRv32i_of_spells {r : OpRow} {w : Word} (hr : r ∈ opcodeTable) (h : r.spells w = true) :
    ∃ i, decodeRv32i w = .ok i := by
  obtain ⟨hop, h3, h7⟩ := OpRow.fields_of_spells h
  obtain ⟨mop, hrow⟩ := opcodeTable_checks r hr
  simp only [List.mem_cons, List.not_mem_nil, or_false] at hrow
  rw [mop, Laws.and_ones7] at hop
  rw [← hop] at hrow
  rcases hrow with (hop | hop | hop) | ⟨m3, hrow⟩
  iterate 3 · simp [decodeRv32i, hop]
  rw [m3, Laws.and_ones3] at h3
  rw [← h3] at hrow
  rcases hrow with ⟨hop, h3⟩ | ⟨hop, h3s⟩ | ⟨hop, h3s⟩ | ⟨hop, h3s⟩ | ⟨hop, h3s⟩ | ⟨m7, hrow⟩
  · simp [decodeRv32i, hop, h3]
  · rcases h3s with h3 | h3 | h3 | h3 | h3 | h3 <;> simp [decodeRv32i, hop, decodeBranch, h3]
  · rcases h3s with h3 | h3 | h3 | h3 | h3 <;> simp [decodeRv32i, hop, decodeLoad, h3]
  · rcases h3s with h3 | h3 | h3 <;> simp [decodeRv32i, hop, decodeStore, h3]
  · rcases h3s with h3 | h3 | h3 | h3 | h3 | h3 <;> simp [decodeRv32i, hop, decodeOpImm, h3]
  rw [m7, Laws.and_ones7] at h7
  rw [← h7] at hrow
  rcases hrow with ⟨hop, h3 | h3, h7⟩ | ⟨hop, h3, h7⟩ | ⟨hop, h7⟩ | ⟨hop, h3 | h3, h7⟩
  iterate 3 · simp [decodeRv32i, hop, decodeOpImm, h3, h7]
  · simp only [decodeRv32i, hop, decodeOp, h7, ↓reduceIte, BitVec.reduceEq]
    (repeat' split) <;> exact ⟨_, rfl⟩
  iterate 2 · simp [decodeRv32i, hop, decodeOp, h3, h7]

/-- Two rows of the table differ in a bit that both check. -/
theorem opcodeTable_exclusive :
    ∀ r ∈ opcodeTable, ∀ q ∈ opcodeTable, r.value &&& q.mask = q.value &&& r.mask → r = q := by
  decide

theorem eq_of_spells {r q : OpRow} {w : Word} (hr : r ∈ opcodeTable) (hq : q ∈ opcodeTable)
    (hrw : r.spells w = true) (hqw : q.spells w = true) : r = q := by
  have hrv : w &&& r.mask = r.value := beq_iff_eq.mp hrw
  have hqv : w &&& q.mask = q.value := beq_iff_eq.mp hqw
  refine opcodeTable_exclusive r hr q hq ?_
  rw [← hrv, ← hqv, BitVec.and_assoc, BitVec.and_assoc, BitVec.and_comm r.mask]

theorem Laws.WordShape.statement (i : Instr) : Statement i := by
  cases i
  exacts [endProg, lui _ _, auipc _ _, jal _ _, jalr _ _ _,
    beq _ _ _, bne _ _ _, blt _ _ _, bge _ _ _, bltu _ _ _, bgeu _ _ _,
    lb _ _ _, lh _ _ _, lw _ _ _, lbu _ _ _, lhu _ _ _, sb _ _ _, sh _ _ _, sw _ _ _,
    addi _ _ _, slti _ _ _, sltiu _ _ _, xori _ _ _, ori _ _ _, andi _ _ _, slli _ _ _, srli _ _ _, srai _ _ _,
    add _ _ _, sub _ _ _, sll _ _ _, slt _ _ _, sltu _ _ _, xor _ _ _, srl _ _ _, sra _ _ _, or _ _ _, and _ _ _]

theorem Instr.HasWord.spelled {i : Instr} {w : Word} (h : i.HasWord w) :
    ∃ r ∈ opcodeTable, r.spells w = true ∧ r.mnemonic = i.mnemonic := by
  obtain ⟨r, hr, hm, hs⟩ := Laws.WordShape.statement i h.notEnd 0#32
  exact ⟨r, hr, h.word 0#32 ▸ hs, hm⟩

/-- A word that `decodeRv32i` reads is the word of what it reads, hence spelled; a spelled word is read. -/
theorem decodeRv32i_error_iff (w : Word) :
    (∃ e, decodeRv32i w = .error e) ↔ ∀ r ∈ opcodeTable, r.spells w = false := by
  constructor
  · rintro ⟨e, he⟩ r hr
    refine Bool.eq_false_iff.mpr fun hs => ?_
    obtain ⟨i, hi⟩ := decodeRv32i_of_spells hr hs
    simp [hi] at he
  · intro hnone
    cases hd : decodeRv32i w with
    | error e => exact ⟨e, rfl⟩
    | ok i =>
      obtain ⟨r, hr, hs, -⟩ := (decodeRv32i_ok_iff.mp hd).spelled
      simp [hnone r hr] at hs

/-- Settles O3: the words of `Instr.HasWord` are those a row spells, and no two rows spell one word (`eq_of_spells`). -/
theorem decodeFollowsTheTable : Obligations.DecodeFollowsTheTable := by
  intro endWord w
  refine ⟨decode_endWord endWord, ?_, ?_, fun r hr q hq => eq_of_spells hr hq⟩
  · intro hw i hi
    rw [decode_of_ne hw, decodeRv32i_ok_iff] at hi
    exact ⟨hi.notEnd, hi.spelled⟩
  · intro hw
    rw [decode_of_ne hw]
    exact decodeRv32i_error_iff w

end Sys2Proof
end

section
/-! PROOFS of the family 40_cycle_orchestrator.md: the order of a cycle and its publish (O43), the two ways it ends
(O45), the halt (O38), the instruction a step runs (O44), and the faults a step from the invariant can answer (O51). -/

namespace Sys2Proof.Machine

/-! ### The end of a cycle (R130, R135) -/

theorem endCycle_of_running {s : State} (h : s.status = .running) : endCycle s = publish s := by
  simp [endCycle, h]

theorem endCycle_of_not_running {s : State} (h : s.status ≠ .running) : endCycle s = { s with nxt := s.cur } := by
  unfold endCycle
  split
  · contradiction
  · rfl
  · rfl

/-- No unit step of a cycle writes the current copy (R131). -/
theorem commitStep_cur_of_units {s s1 s2 s3 : State} (h1 : lsqStep (beginCycle s) = .next s1)
    (h2 : fetchStep s1 = .next s2) (h3 : commitStep (rsStep s2) = .next s3) : s3.cur = s.cur := by
  obtain ⟨-, hcur2, -⟩ := step_units_cur h1 h2
  obtain ⟨-, hcur3, -⟩ := commitStep_keeps h3
  exact hcur3.trans hcur2

/-- Settles O45: a running end is a publish of one state in both copies, any other end publishes nothing. -/
theorem clockCountsPublishedCycles : Obligations.ClockCountsPublishedCycles := by
  intro s t h
  refine ⟨step_cfg h, ?_⟩
  obtain ⟨-, s1, s2, s3, h1, h2, h3, rfl⟩ := step_cases h
  have hcur := commitStep_cur_of_units h1 h2 h3
  rw [endCycle_status]
  by_cases hrun : s3.status = .running
  · rw [endCycle_of_running hrun]
    exact ⟨rfl, fun _ => by simp [hcur], fun hne => absurd hrun hne⟩
  · rw [endCycle_of_not_running hrun]
    exact ⟨rfl, fun hr => absurd hr hrun, fun _ => hcur⟩

/-- Settles O43. -/
theorem cycleOrderAndPublish : Obligations.CycleOrderAndPublish := by
  intro s s1 s2 s3 hs h1 h2 h3 hrun
  obtain ⟨hcur1, hcur2, -⟩ := step_units_cur h1 h2
  have hcur3 := commitStep_cur_of_units h1 h2 h3
  refine ⟨hcur1, hcur2, hcur2, hcur3, ?_⟩
  rw [step_of_units hs h1 h2 h3, endCycle_of_running hrun, publish, hcur3, hrun]

/-! ### The halt (R321) -/

theorem commitStep_of_endProg {s : State} (hc : s.cur.commits = true) (hk : s.cur.robHeadEntry.kind = .endProg) :
    commitStep s = commitEnd s := by
  obtain ⟨hne, hr⟩ := (commits_iff s.cur).mp hc
  unfold Bank.robHeadEntry at hk hr
  simp [commitStep, hne, hr, hk]

/-- Settles O38. -/
theorem endCommitHalts : Obligations.EndCommitHalts := by
  intro s s1 s2 hs hc hk h1 h2
  obtain ⟨-, hcur, -, hcfg, hmem⟩ := step_units_cur h1 h2
  have hcommit : commitStep (rsStep s2) = commitEnd (rsStep s2) :=
    commitStep_of_endProg (by rwa [rsStep_cur, hcur]) (by rwa [rsStep_cur, hcur])
  rw [step_of_units hs h1 h2 hcommit, endCycle_of_not_running]
  · simp [hcur, hcfg, hmem, a0]
  · nofun

/-! ### The instruction of a cycle (R150, R154) -/

/-- A cycle after its LSQ step. -/
theorem step_after_lsq {s s1 : State} (hs : s.status = .running) (h1 : lsqStep (beginCycle s) = .next s1) :
    step s = bindNext (fetchStep s1) fun s2 => bindNext (commitStep (rsStep s2)) fun s3 => .next (endCycle s3) := by
  rw [step, cycle, hs]
  dsimp only
  rw [computePhase, h1, bindNext_next]
  cases fetchStep s1 <;> rfl

/-- The range check passes where every byte lies below `MEM_SIZE` (R70). -/
theorem outOfRange_eq_none {c : Config} {a : Word} {n : Nat}
    (h : ∀ j < n, (a + BitVec.ofNat 32 j).toNat < c.memSize) : outOfRange c a n = none := by
  simpa [outOfRange] using h

theorem fetchStep_of_decode {s : State} {i : Instr} (hf : s.cur.MayFetch)
    (hin : outOfRange s.cfg s.cur.pc 4 = none) (hi : decode s.cfg.endWord (fetchWord s) = .ok i) :
    fetchStep s = exec i s := by
  simp [fetchStep, fetchDispatch, hf.notStopped, hf.notWaiting, hf.notFull, hin, hi]

/-- Settles O44. -/
theorem stepRunsTheDecodedInstruction : Obligations.StepRunsTheDecodedInstruction := by
  intro s s1 i hs hstop hwait hfull hin h1 hi
  have f1 := lsqStep_frame h1
  have hcur : s1.cur = s.cur := f1.cur
  have hcfg : s1.cfg = s.cfg := f1.cfg
  have hfetch : fetchStep s1 = exec i s1 :=
    fetchStep_of_decode (hcur ▸ ⟨hfull, hstop, hwait⟩) (by rw [hcfg, hcur]; exact outOfRange_eq_none hin)
      (by rwa [fetchWord, hcfg, hcur])
  refine ⟨hfetch ▸ step_after_lsq hs h1, fun hp => ?_⟩
  rw [lsqStep_mem h1, if_neg (by simp [hp]), beginCycle_mem]

/-! ### The faults of a cycle (R134, R371) -/

/-- An answer of the machine with parameters `c` that is a next state, or the Fatal of a word it cannot decode or of an
address beyond its memory: no internal assertion, no refusal. -/
inductive Answers (c : Config) : Result → Prop
  | next (t : State) : Answers c (.next t)
  | decodeError {w : Word} {e : Reject} (h : decode c.endWord w = .error e) :
    Answers c (.fault (.fatal (.decodeError w)))
  | memRange {a : Nat} (hout : c.memSize ≤ a) (hword : a < 2 ^ 32) : Answers c (.fault (.fatal (.memRange a)))

theorem Answers.bind {c : Config} {r : Result} {f : State → Result} (hr : Answers c r)
    (hf : ∀ t, r = .next t → Answers c (f t)) : Answers c (bindNext r f) := by
  cases hr with
  | next t => exact hf t rfl
  | decodeError h => exact .decodeError h
  | memRange hout hword => exact .memRange hout hword

/-- A reported address is one of a byte of the access. -/
theorem outOfRange_bounds {c : Config} {a : Word} {n x : Nat} (h : outOfRange c a n = some x) :
    c.memSize ≤ x ∧ x < 2 ^ 32 := by
  obtain ⟨i, -, rfl⟩ := List.mem_map.mp (List.mem_of_find?_eq_some h)
  exact ⟨by simpa using List.find?_some h, BitVec.isLt _⟩

theorem memPipeline_answers (s : State) : Answers s.cfg (memPipeline s) := by
  unfold memPipeline
  split
  · split
    · exact .next _
    · dsimp only
      split
      · next hx =>
        obtain ⟨hout, hword⟩ := outOfRange_bounds hx
        exact .memRange hout hword
      · exact .next _
  · split
    · exact .next _
    · exact .next _

theorem lsqStep_answers (s : State) : Answers s.cfg (lsqStep s) := memPipeline_answers (lsqWake s)

section
variable {s : State} (hf : s.cur.robFull = false)
include hf

/-! Where the reorder buffer has room, a dispatch answers a next state: `rob_add` is its only fault. -/

theorem dispatchReady_next (rd : Reg) (v a : Word) : ∃ t, dispatchReady rd v a s = .next t :=
  ⟨_, dispatchReady_of_not_full hf⟩

theorem dispatchComputational_next (op : RsOp) (rd : Reg) (o1 o2 : Operand) :
    ∃ t, dispatchComputational op rd o1 o2 s = .next t := by
  cases hk : freeRsSlot s.cur.rs with
  | none => exact ⟨s, by simp [dispatchComputational, hk]⟩
  | some k => exact ⟨_, dispatchComputational_of_room hf hk⟩

theorem dispatchBranch_next (op : RsOp) (rs1 rs2 : Reg) (off : Word) :
    ∃ t, dispatchBranch op rs1 rs2 off s = .next t := by
  cases hk : freeRsSlot s.cur.rs with
  | none => exact ⟨s, by simp [dispatchBranch, hk]⟩
  | some k => exact ⟨_, dispatchBranch_of_room hf hk⟩

theorem dispatchLoad_next (ty : LsqType) (rd rs1 : Reg) (off : Word) :
    ∃ t, dispatchLoad ty rd rs1 off s = .next t := by
  cases hq : s.cur.lsqFull s.cfg with
  | true => exact ⟨s, by simp [dispatchLoad, hq]⟩
  | false => exact ⟨_, dispatchLoad_of_room hf hq⟩

theorem dispatchStore_next (ty : LsqType) (rs1 rs2 : Reg) (off : Word) :
    ∃ t, dispatchStore ty rs1 rs2 off s = .next t := by
  cases hq : s.cur.lsqFull s.cfg with
  | true => exact ⟨s, by simp [dispatchStore, hq]⟩
  | false => exact ⟨_, dispatchStore_of_room hf hq⟩

theorem execEnd_next : ∃ t, execEnd s = .next t := by
  rw [execEnd, robAdd_of_not_full hf]
  exact ⟨_, rfl⟩

theorem execAuipc_next (rd : Reg) (imm : BitVec 20) : ∃ t, execAuipc rd imm s = .next t := by
  unfold execAuipc
  split
  · exact ⟨_, rfl⟩
  · exact ⟨_, rfl⟩
  · exact dispatchReady_next hf ..

theorem execJalr_next (rd rs1 : Reg) (imm : BitVec 12) : ∃ t, execJalr rd rs1 imm s = .next t := by
  rw [execJalr, robAdd_of_not_full hf, bindNext_next]
  split
  · exact ⟨_, rfl⟩
  · exact ⟨_, rfl⟩

theorem exec_next (i : Instr) : ∃ t, exec i s = .next t := by
  cases i with
  | endProg => exact execEnd_next hf
  | auipc => exact execAuipc_next hf ..
  | jalr => exact execJalr_next hf ..
  | lui | jal => exact dispatchReady_next hf ..
  | beq | bne | blt | bge | bltu | bgeu => exact dispatchBranch_next hf ..
  | lb | lh | lw | lbu | lhu => exact dispatchLoad_next hf ..
  | sb | sh | sw => exact dispatchStore_next hf ..
  | addi | slti | sltiu | xori | ori | andi | slli | srli | srai => exact dispatchComputational_next hf ..
  | add | sub | sll | slt | sltu | xor | srl | sra | or | and => exact dispatchComputational_next hf ..

theorem fetchDispatch_answers : Answers s.cfg (fetchDispatch s) := by
  unfold fetchDispatch
  split
  · next hx =>
    obtain ⟨hout, hword⟩ := outOfRange_bounds hx
    exact .memRange hout hword
  · split
    · next i _ =>
      obtain ⟨t, ht⟩ := exec_next hf i
      exact ht ▸ .next t
    · next he => exact .decodeError he

end

/-- The fetch unit dispatches only where the buffer has room (R150). -/
theorem fetchStep_answers (s : State) : Answers s.cfg (fetchStep s) := by
  unfold fetchStep
  split
  · exact .next _
  · split
    · exact .next _
    · split
      · exact .next _
      · next hf => exact fetchDispatch_answers (by simpa using hf)

/-- A MemoryWrite entry at the head names a store of the queue that has not committed (R318, R46 g). -/
theorem QueueOk.uncommittedStoreAt_head {s : State} (hq : QueueOk s.cfg s.cur) (hne : s.cur.robEmpty = false)
    (hk : s.cur.robHeadEntry.kind = .memoryWrite) : uncommittedStoreAt s s.cur.robHeadEntry.dest.toNat = true := by
  obtain ⟨-, hocc, hstore, hready, -⟩ := hq.memoryWriteNamesStore s.cur.robHead (robHead_occupied hne) hk
  simp [uncommittedStoreAt, Bank.robHeadEntry, hocc, hstore, hready]

/-- The commit step faults on no queue that is in order. -/
theorem commitStep_next {s : State} (hq : QueueOk s.cfg s.cur) : ∃ t, commitStep s = .next t := by
  unfold commitStep
  split
  · exact ⟨_, rfl⟩
  · next hne =>
    dsimp only
    split
    · exact ⟨_, rfl⟩
    · split
      · exact ⟨_, rfl⟩
      · next hk =>
        exact ⟨_, if_pos (hq.uncommittedStoreAt_head (by simpa using hne) hk)⟩
      · exact ⟨_, rfl⟩
      · exact ⟨_, rfl⟩

theorem step_answers {s : State} (hq : QueueOk s.cfg s.cur) (hs : s.status = .running) : Answers s.cfg (step s) := by
  have hphase : Answers s.cfg (computePhase s) := by
    refine .bind (.bind (lsqStep_answers (beginCycle s)) fun s1 h1 => ?_) fun s2 h12 => ?_
    · exact (lsqStep_frame h1).cfg ▸ fetchStep_answers s1
    · obtain ⟨s1, h1, h2⟩ := bindNext_eq_next h12
      obtain ⟨-, hcur, -, hcfg, -⟩ := step_units_cur h1 h2
      obtain ⟨s3, h3⟩ := commitStep_next (s := rsStep s2) (by rwa [rsStep_cur, rsStep_cfg, hcur, hcfg])
      exact h3 ▸ .next s3
  rw [step, cycle, hs]
  exact hphase.bind fun s3 _ => .next (endCycle s3)

/-- Settles O51: the LSQ and fetch steps answer only the faults listed from any state (`lsqStep_answers`,
`fetchStep_answers`); the invariant rules out the assertion of the commit step (`commitStep_next`). -/
theorem stepOutcomes : Obligations.StepOutcomes := by
  intro s hI hs
  have h := step_answers hI.queue hs
  generalize step s = r at h ⊢
  cases h with
  | next t => exact .inl ⟨t, rfl⟩
  | decodeError h => exact .inr (.inl ⟨_, _, h, rfl⟩)
  | memRange hout hword => exact .inr (.inr ⟨_, hout, hword, rfl⟩)

end Sys2Proof.Machine
end

section
/-! PROOFS of the family 41_fetch_decode_dispatch.md: what the dispatch of each instruction stages (O12 to O18), the
four cases of the fetch step (O22), and the runs of the instructions resolved in the fetch unit, to the halt (O53).
For a run, a cycle in which queue, station and units are idle is its fetch and commit steps alone (`step_of_idle`), and
the END fetched last halts the machine one cycle after whatever is at the head then has committed (`FetchesEnd`). -/

namespace Sys2Proof.Machine

/-! ### `rob_add` in the vocabulary of the statements (R312, R176) -/

theorem robAdded_regWriteEntry (rd : Reg) (ready : Bool) (v : Word) (s : State) :
    robAdded (regWriteEntry rd ready v) s = stageRename rd (stageEntry (regWriteEntry rd ready v) s) := by
  unfold robAdded stageRename
  rw [regWriteEntry, setWidth_dest, if_pos rfl, renamedRegs]
  split <;> rfl

/-- The slot found free is the lowest empty one (R194, D12). -/
theorem freeRsSlot_of_firstFree {b : Bank} {k : Nat} (h : FirstFree b k) : freeRsSlot b.rs = some k := by
  refine List.findIdx?_eq_some_iff_getElem.mpr ⟨h.inRange, ?_, fun j hj => ?_⟩
  · simpa [Bank.rsAt, List.getD, h.inRange] using h.empty
  · simpa [Bank.rsAt, List.getD, hj.trans h.inRange] using h.lowest j hj

/-! ### A write to a register of the reference interpreter (R10, R405) -/

@[simp] theorem Arch.write_pc (a : Arch) (i : Reg) (v : Word) : (a.write i v).pc = a.pc := by
  unfold Arch.write; split <;> rfl

@[simp] theorem Arch.write_mem (a : Arch) (i : Reg) (v : Word) : (a.write i v).mem = a.mem := by
  unfold Arch.write; split <;> rfl

theorem Arch.write_x (a : Arch) (i j : Reg) (v : Word) :
    slotGet (a.write i v).x j = if i ≠ 0#5 ∧ j = i then v else slotGet a.x j := by
  unfold Arch.write
  by_cases hi : i = 0#5
  · simp [hi]
  · simp [hi, slotGet_slotSet]

theorem Arch.write_advance (a : Arch) (i : Reg) (v : Word) :
    (a.write i v).advance = { a.write i v with pc := a.pc + 4#32 } := by
  rw [Arch.advance, Arch.write_pc]

/-- A write does not see the pc. -/
theorem Arch.write_setPc (a : Arch) (i : Reg) (v p : Word) :
    { a with pc := p }.write i v = { a.write i v with pc := p } := by
  unfold Arch.write; split <;> rfl

/-! ### What each class of dispatch stages (R160 to R173) -/

/-! AUIPC, an equation per mode (R166, D7). -/

theorem execAuipc_pcPlusImmNoWrite {s : State} (h : s.cfg.auipcMode = .pcPlusImmNoWrite) (rd : Reg)
    (imm : BitVec 20) : execAuipc rd imm s = .next (setNextPc (s.cur.pc + immUpper imm) s) := by
  rw [execAuipc, h]

theorem execAuipc_pcPlus4NoWrite {s : State} (h : s.cfg.auipcMode = .pcPlus4NoWrite) (rd : Reg) (imm : BitVec 20) :
    execAuipc rd imm s = .next (setNextPc (s.cur.pc + 4#32) s) := by
  rw [execAuipc, h]

theorem execAuipc_rv32i {s : State} (h : s.cfg.auipcMode = .rv32i) (rd : Reg) (imm : BitVec 20) :
    execAuipc rd imm s = dispatchReady rd (s.cur.pc + immUpper imm) (s.cur.pc + 4#32) s := by
  rw [execAuipc, h]

section
variable {s : State} (hf : s.cur.robFull = false)
include hf

theorem dispatchReady_stages (rd : Reg) (v a : Word) :
    dispatchReady rd v a s
      = .next { stageRename rd (stageEntry (regWriteEntry rd true v) s) with nxt.pc := a } := by
  rw [dispatchReady_of_not_full hf, robAdded_regWriteEntry]
  rfl

theorem dispatchComputational_stages {k : Nat} (hk : FirstFree s.cur k) (op : RsOp) (rd : Reg) (o1 o2 : Operand) :
    dispatchComputational op rd o1 o2 s
      = .next { stageRename rd (stageEntry (regWriteEntry rd false 0#32) s) with
          nxt.rs := s.nxt.rs.set k (rsEntry op s.cur.robTail o1 o2), nxt.pc := s.cur.pc + 4#32 } := by
  rw [dispatchComputational_of_room hf (freeRsSlot_of_firstFree hk), ← robAdded_regWriteEntry]
  rfl

theorem dispatchBranch_stages {k : Nat} (hk : FirstFree s.cur k) (op : RsOp) (rs1 rs2 : Reg) (off : Word) :
    dispatchBranch op rs1 rs2 off s
      = .next { stageEntry (branchEntry (predict s s.cur.pc) (s.cur.pc + off) s.cur.pc) s with
          nxt.rs := s.nxt.rs.set k (rsEntry op s.cur.robTail (resolve s rs1) (resolve s rs2)),
          nxt.pc := if predict s s.cur.pc then s.cur.pc + off else s.cur.pc + 4#32 } := by
  rw [dispatchBranch_of_room hf (freeRsSlot_of_firstFree hk)]
  rfl

theorem dispatchLoad_stages (hq : s.cur.lsqFull s.cfg = false) (ty : LsqType) (rd rs1 : Reg) (off : Word) :
    dispatchLoad ty rd rs1 off s
      = .next { stageRename rd (stageEntry (regWriteEntry rd false 0#32) s) with
          nxt.lsq := s.nxt.lsq.set s.cur.lsqTail (loadEntry ty s.cur.robTail (resolve s rs1) off),
          nxt.lsqTail := lsqNext s.cfg s.cur.lsqTail, nxt.pc := s.cur.pc + 4#32 } := by
  rw [dispatchLoad_of_room hf hq, ← robAdded_regWriteEntry]
  rfl

theorem dispatchStore_stages (hq : s.cur.lsqFull s.cfg = false) (ty : LsqType) (rs1 rs2 : Reg) (off : Word) :
    dispatchStore ty rs1 rs2 off s
      = .next { stageEntry (memWriteEntry s.cur.lsqTail) s with
          nxt.lsq := s.nxt.lsq.set s.cur.lsqTail (storeEntry ty s.cur.robTail (resolve s rs1) (resolve s rs2) off),
          nxt.lsqTail := lsqNext s.cfg s.cur.lsqTail, nxt.pc := s.cur.pc + 4#32 } := by
  rw [dispatchStore_of_room hf hq]
  rfl

theorem execEnd_stages : execEnd s = .next { stageEntry endEntry s with nxt.fetchStopped := true } := by
  rw [execEnd, robAdd_of_not_full hf]
  rfl

/-- A JALR whose base is known is resolved like a JAL (R168). -/
theorem execJalr_eq_dispatchReady {rs1 : Reg} {v : Word} (hv : resolve s rs1 = .value v) (rd : Reg)
    (imm : BitVec 12) :
    execJalr rd rs1 imm s = dispatchReady rd (s.cur.pc + 4#32) (jalrTarget v (immSext12 imm)) s := by
  rw [execJalr, dispatchReady, robAdd_of_not_full hf, hv]

theorem execJalr_waits {rs1 : Reg} {q : Slot} (hq : resolve s rs1 = .wait q) (rd : Reg) (imm : BitVec 12) :
    execJalr rd rs1 imm s
      = .next { stageRename rd (stageEntry (regWriteEntry rd true (s.cur.pc + 4#32)) s) with
          nxt.jalrWait := ⟨true, q, immSext12 imm⟩ } := by
  rw [execJalr, robAdd_of_not_full hf, robAdded_regWriteEntry, hq]
  rfl

end

/-- Settles O12. -/
theorem endDispatch : Obligations.EndDispatch := fun _ hf => execEnd_stages hf

/-- Settles O13. -/
theorem luiAndJalDispatch : Obligations.LuiAndJalDispatch := fun rd _ _ _ hf =>
  ⟨⟨dispatchReady_stages hf rd _ _, fun _ => rfl, fun _ _ => Arch.write_advance ..⟩,
    dispatchReady_stages hf rd _ _, fun _ => rfl, fun _ _ => rfl⟩

/-- Settles O14. -/
theorem auipcDispatch : Obligations.AuipcDispatch := fun rd imm _ hf =>
  ⟨fun hm => execAuipc_pcPlusImmNoWrite hm rd imm, fun hm => execAuipc_pcPlus4NoWrite hm rd imm,
    fun hm => (execAuipc_rv32i hm rd imm).trans (dispatchReady_stages hf rd _ _)⟩

/-- Settles O15, by the outcome of resolving the base. -/
theorem jalrDispatch : Obligations.JalrDispatch := fun rd _ imm _ hf =>
  ⟨fun _ hv => (execJalr_eq_dispatchReady hf hv rd imm).trans (dispatchReady_stages hf rd _ _),
    fun _ hq => execJalr_waits hf hq rd imm, fun _ _ => rfl⟩

/-- Settles O16: the 19 are one dispatch, of their operation and second operand. -/
theorem computationalDispatch : Obligations.ComputationalDispatch := by
  intro rd rs1 rs2 imm shamt s k hf hk dispatched
  have h (op : RsOp) (o2 : Operand) : dispatchComputational op rd (resolve s rs1) o2 s = dispatched op o2 :=
    dispatchComputational_stages hf hk op rd _ o2
  exact ⟨h _ _, h _ _, h _ _, h _ _, h _ _, h _ _, h _ _, h _ _, h _ _, h _ _, h _ _, h _ _, h _ _, h _ _, h _ _,
    h _ _, h _ _, h _ _, h _ _⟩

/-- Settles O17. -/
theorem branchDispatch : Obligations.BranchDispatch := by
  intro rs1 rs2 imm s k hf hk p target dispatched
  have h (op : RsOp) : dispatchBranch op rs1 rs2 (immSext13 imm) s = dispatched op :=
    dispatchBranch_stages hf hk op rs1 rs2 _
  exact ⟨h _, h _, h _, h _, h _, h _⟩

/-- Settles O18. -/
theorem loadAndStoreDispatch : Obligations.LoadAndStoreDispatch := by
  intro rd rs1 rs2 imm s hf hq offset load store
  have hload (ty : LsqType) : dispatchLoad ty rd rs1 (immSext12 imm) s = load ty :=
    dispatchLoad_stages hf hq ty rd rs1 _
  have hstore (ty : LsqType) : dispatchStore ty rs1 rs2 (immSext12 imm) s = store ty :=
    dispatchStore_stages hf hq ty rs1 rs2 _
  exact ⟨hload _, hload _, hload _, hload _, hload _, hstore _, hstore _, hstore _⟩

/-! ### The fetch step (R150, R154) -/

theorem fetchStep_of_undecodable {s : State} {e : Reject} (hf : s.cur.MayFetch)
    (hin : outOfRange s.cfg s.cur.pc 4 = none) (he : decode s.cfg.endWord (fetchWord s) = .error e) :
    fetchStep s = .fault (.fatal (.decodeError (fetchWord s))) := by
  simp [fetchStep, fetchDispatch, raiseFatal, hf.notStopped, hf.notWaiting, hf.notFull, hin, he]

theorem fetchStep_of_stopped {s : State} (h : s.cur.fetchStopped = true) : fetchStep s = .next s := by
  simp [fetchStep, h]

/-- Settles O22. -/
theorem fetchStepCases : Obligations.FetchStepCases := by
  intro s
  refine ⟨fetchStep_of_stopped, fun hs hw => by simp [fetchStep, hs, hw],
    fun hs hw hf => by simp [fetchStep, hs, hw, hf], fun hs hw hf hin => ?_⟩
  have hrange := outOfRange_eq_none hin
  exact ⟨fun i hi => fetchStep_of_decode ⟨hf, hs, hw⟩ hrange hi,
    fun e he => fetchStep_of_undecodable ⟨hf, hs, hw⟩ hrange he⟩

/-! ### A cycle in which only the fetch and commit steps act -/

/-- Queue, station and units have nothing to do in a cycle from this bank; the reorder buffer may hold entries. -/
structure Bank.Idle (b : Bank) : Prop where
  lsqEmpty : b.lsqEmpty = true
  notInflight : b.lsqInflight = false
  rsEmpty : ∀ e ∈ b.rs, e.empty = true
  noneFinished : ∀ f ∈ b.fu.units, f.finished = false

theorem Quiescent.idle {s : State} (h : Quiescent s) : s.cur.Idle :=
  ⟨h.lsqEmpty, h.notInflight, h.rsEmpty, fun f hf => (h.unitsIdle f hf).2⟩

theorem lsqCountOcc_of_lsqEmpty {b : Bank} (c : Config) (h : b.lsqEmpty = true) : b.lsqCountOcc c = 0 := by
  simp only [Bank.lsqEmpty, beq_iff_eq] at h
  simp [Bank.lsqCountOcc, Bank.lsqAge, h]

theorem mapIdx_unchanged {α : Type} (l : List α) : l.mapIdx (fun _ a => a) = l :=
  List.mapIdx_eq_iff.mpr (by simp)

theorem lsqWake_of_lsqEmpty {s : State} (h : s.cur.lsqEmpty = true) : lsqWake s = s := by
  have hno (i : Nat) : s.cur.lsqOccupied s.cfg i = false := by
    simp [Bank.lsqOccupied, lsqCountOcc_of_lsqEmpty s.cfg h]
  simp [lsqWake, reportStores, hno, mapIdx_unchanged]

theorem lsqStep_of_idle {s : State} (h : s.cur.Idle) : lsqStep s = .next s := by
  rw [lsqStep, lsqWake_of_lsqEmpty h.lsqEmpty]
  simp [memPipeline, h.notInflight, h.lsqEmpty]

/-- Where no entry wants a unit, none is granted and none accepted (R197). -/
theorem acceptAll_of_none_issuable (fu a : FuArray) {es : List RsEntry} (h : ∀ e ∈ es, e.issuable = false) :
    acceptAll fu es (issueGrants a es) = fu := by
  induction es with
  | nil => rfl
  | cons e es ih =>
    obtain ⟨he, hes⟩ := List.forall_mem_cons.mp h
    simpa [issueGrants, he, acceptAll] using ih hes

theorem harvest_of_none_finished {fu : FuArray} (h : ∀ f ∈ fu.units, f.finished = false) :
    (∀ rob, harvestRob fu rob = rob) ∧ ∀ nxt, harvestFu fu nxt = nxt := by
  simp only [FuArray.units, List.forall_mem_cons] at h
  simp [harvestRob, FuArray.units, harvestFu, idleIfFinished, h]

theorem rsStep_of_idle {s : State} (h : s.cur.Idle) : rsStep s = s := by
  obtain ⟨hrob, hfu⟩ := harvest_of_none_finished h.noneFinished
  have hissue : ∀ e ∈ s.cur.rs, e.issuable = false := fun e he => by simp [RsEntry.issuable, h.rsEmpty e he]
  have hempty (k : Nat) : (s.cur.rsAt k).empty = true := by
    by_cases hk : k < s.cur.rs.length
    · exact h.rsEmpty _ (rsAt_mem hk)
    · simp [Bank.rsAt, hk, RsEntry.reset]
  simp [rsStep, hrob, hfu, acceptAll_of_none_issuable _ _ hissue, rsSlotStep, hempty, mapIdx_unchanged]

/-- A cycle from an idle bank is its fetch step and its commit step (R130). -/
theorem step_of_idle {s t u : State} (hs : s.status = .running) (h : s.cur.Idle)
    (hfetch : fetchStep (beginCycle s) = .next t) (hcommit : commitStep t = .next u) :
    step s = .next (endCycle u) := by
  have hcur : t.cur = s.cur := (fetchStep_frame hfetch).cur
  exact step_of_units hs (lsqStep_of_idle h) hfetch (by rwa [rsStep_of_idle (hcur ▸ h)])

theorem robHead_eq_robTail {b : Bank} (h : b.robEmpty = true) : b.robHead = b.robTail := beq_iff_eq.mp h

theorem commitStep_of_robEmpty {s : State} (h : s.cur.robEmpty = true) : commitStep s = .next s := by
  simp [commitStep, h]

theorem commitStep_of_registerWrite {s : State} (hc : s.cur.commits = true)
    (hk : s.cur.robHeadEntry.kind = .registerWrite) : commitStep s = commitRegister s.cur.robHeadEntry s := by
  obtain ⟨hne, hr⟩ := (commits_iff s.cur).mp hc
  unfold Bank.robHeadEntry at hk hr ⊢
  simp [commitStep, hne, hr, hk]

/-! ### The architectural view (R405) -/

theorem finalMemory_of_lsqEmpty {s : State} (h : s.cur.lsqEmpty = true) : finalMemory s = s.mem := by
  simp [finalMemory, lsqOrder, lsqCountOcc_of_lsqEmpty s.cfg h]

theorem arch_x (s : State) (i : Reg) : slotGet s.arch.x i = (slotGet s.cur.reg i).value := by
  simp [slotGet, State.arch]

theorem arch_read (s : State) (i : Reg) : s.arch.read i = s.cur.regRead i := by
  rw [Arch.read, Bank.regRead, arch_x]

/-- With an empty queue the view is the committed registers, the pc and memory as it stands. -/
theorem arch_eq_of_lsqEmpty {s : State} {a : Arch} (hq : s.cur.lsqEmpty = true)
    (hx : ∀ i, (slotGet s.cur.reg i).value = slotGet a.x i) (hpc : s.cur.pc = a.pc) (hmem : s.mem = a.mem) :
    s.arch = a := by
  have hregs : s.arch.x = a.x := slot_ext fun i => (arch_x s i).trans (hx i)
  obtain ⟨x, pc, mem⟩ := a
  subst hregs hpc hmem
  rw [State.arch, finalMemory_of_lsqEmpty hq]

/-! ### The halt on an END fetched last (R160, R321) -/

theorem HaltsAs.of_step {n : Nat} {s t : State} {a : Arch} (h : step s = .next t) (ht : HaltsAs n t a) :
    HaltsAs (n + 1) s a := by
  obtain ⟨u, hrun, hu⟩ := ht
  exact ⟨u, by simpa [Host.Core.run, core, h] using hrun, hu⟩

/-- The END at the head has stopped fetching, and commits in the next cycle. -/
structure EndsNext (s : State) : Prop where
  running : s.status = .running
  idle : s.cur.Idle
  stopped : s.cur.fetchStopped = true
  notEmpty : s.cur.robEmpty = false
  head : s.cur.robHeadEntry = endEntry

theorem EndsNext.halts {s : State} (h : EndsNext s) : HaltsAs 1 s s.arch := by
  have hc : s.cur.commits = true := (commits_iff s.cur).mpr ⟨h.notEmpty, by rw [h.head]; rfl⟩
  have hstep := endCommitHalts s _ _ h.running hc (by rw [h.head]; rfl) (lsqStep_of_idle (s := beginCycle s) h.idle)
    (fetchStep_of_stopped (s := beginCycle s) h.stopped)
  refine .of_step hstep ⟨_, rfl, ?_, rfl⟩
  rw [arch_read]
  rfl

/-- The fetch unit is about to fetch END, and only the reorder buffer may hold older entries. -/
structure FetchesEnd (s : State) : Prop where
  running : s.status = .running
  idle : s.cur.Idle
  mayFetch : s.cur.MayFetch
  allMemory : 2 ^ 32 ≤ s.cfg.memSize
  atPc : fetchWord s = s.cfg.endWord

/-- The state that a cycle's fetch of END leaves to the commit step. -/
def endFetched (s : State) : State := { stageEntry endEntry (beginCycle s) with nxt.fetchStopped := true }

@[simp] theorem endFetched_cur (s : State) : (endFetched s).cur = s.cur := rfl
@[simp] theorem endFetched_status (s : State) : (endFetched s).status = s.status := rfl

theorem outOfRange_of_allMemory {c : Config} (h : 2 ^ 32 ≤ c.memSize) (a : Word) (n : Nat) :
    outOfRange c a n = none :=
  outOfRange_eq_none fun _ _ => (BitVec.isLt _).trans_le h

theorem FetchesEnd.fetchStep_eq {s : State} (h : FetchesEnd s) : fetchStep (beginCycle s) = .next (endFetched s) := by
  have hdecode : decode s.cfg.endWord (fetchWord s) = .ok .endProg := h.atPc ▸ decode_endWord _
  rw [fetchStep_of_decode (s := beginCycle s) h.mayFetch (outOfRange_of_allMemory h.allMemory _ _) hdecode]
  exact execEnd_stages h.mayFetch.notFull

/-- Whatever commits in the cycle that fetches END, where it leaves END at the head with the registers of `a`, the
machine halts with `a` in the next. -/
theorem FetchesEnd.halts {s t : State} {a : Arch} (h : FetchesEnd s) (hcommit : commitStep (endFetched s) = .next t)
    (hs : t.status = .running)
    (hn : t.nxt = { (endFetched s).nxt with reg := t.nxt.reg, robHead := s.cur.robTail })
    (hx : ∀ i, (slotGet t.nxt.reg i).value = slotGet a.x i) (hpc : s.cur.pc = a.pc) (hmem : s.mem = a.mem) :
    HaltsAs 2 s a := by
  obtain ⟨-, hcur, hm⟩ := commitStep_keeps hcommit
  have hpub : (publish t).cur = { (endFetched s).nxt with
      reg := t.nxt.reg, robHead := s.cur.robTail, clock := t.cur.clock + 1 } := by rw [publish_cur, hn]
  have hidle : (publish t).cur.Idle := by rw [hpub]; exact { h.idle with }
  have harch : (publish t).arch = a := by
    refine arch_eq_of_lsqEmpty hidle.lsqEmpty hx ?_ (hm.trans hmem)
    rw [hpub]
    exact hpc
  have hend : EndsNext (publish t) := {
    running := hs
    idle := hidle
    stopped := by rw [hpub]; rfl
    notEmpty := by rw [hpub]; simp [Bank.robEmpty, endFetched, stageEntry]
    head := by rw [hpub]; simp [Bank.robHeadEntry, endFetched, stageEntry] }
  rw [← harch]
  refine .of_step ?_ hend.halts
  rw [step_of_idle h.running h.idle h.fetchStep_eq hcommit, endCycle_of_running hs]

theorem FetchesEnd.halts_of_robEmpty {s : State} (h : FetchesEnd s) (he : s.cur.robEmpty = true) :
    HaltsAs 2 s s.arch := by
  refine h.halts (commitStep_of_robEmpty (s := endFetched s) he) h.running ?_ (fun i => (arch_x s i).symm) rfl
    (finalMemory_of_lsqEmpty h.idle.lsqEmpty).symm
  rw [← robHead_eq_robTail he]
  rfl

/-- The one entry in the reorder buffer, ready, of an instruction that writes `v` to `rd`, commits while END is
fetched. -/
theorem FetchesEnd.halts_of_registerWrite {s : State} {rd : Reg} {v : Word} (h : FetchesEnd s)
    (hlast : s.cur.robHead + 1#5 = s.cur.robTail) (hhead : s.cur.robHeadEntry = regWriteEntry rd true v) :
    HaltsAs 2 s (s.arch.write rd v) := by
  have hne : s.cur.robEmpty = false := by simp [Bank.robEmpty, ← hlast]
  have hc : s.cur.commits = true := (commits_iff s.cur).mpr ⟨hne, by rw [hhead]; rfl⟩
  have hcommit : commitStep (endFetched s) = .next (robPop (regWrite rd v s.cur.robHead (endFetched s))) := by
    rw [commitStep_of_registerWrite (s := endFetched s) hc (by rw [endFetched_cur, hhead]; rfl), endFetched_cur, hhead,
      commitRegister, regWriteEntry, setWidth_dest, endFetched_cur]
  refine h.halts hcommit ?_ ?_ ?_ ?_ ?_
  · simpa using h.running
  · rw [robPop_nxt, regWrite_nxt, regWrite_cur, ← hlast]
    rfl
  · intro i
    rw [Arch.write_x, arch_x, robPop_nxt]
    exact regWrite_value ..
  · rw [Arch.write_pc]
    rfl
  · rw [Arch.write_mem]
    exact (finalMemory_of_lsqEmpty h.idle.lsqEmpty).symm

/-! ### The runs of the instructions resolved in the fetch unit (R161 to R168, R406) -/

theorem Quiescent.mayFetch {s : State} (h : Quiescent s) : s.cur.MayFetch := by
  obtain ⟨hstop, hwait⟩ := h.fetching
  exact ⟨by simp [Bank.robFull, robHead_eq_robTail h.robEmpty], hstop, hwait⟩

/-- Every register of a quiet machine resolves to its committed value (R156). -/
theorem Quiescent.resolve_eq {s : State} (h : Quiescent s) (r : Reg) :
    resolve (beginCycle s) r = .value (s.arch.read r) := by
  rw [arch_read]
  unfold resolve
  by_cases hr : r = 0#5
  · simp [hr, Bank.regRead]
  · simp [hr, h.clean]

/-- The first cycle of a program in a quiet machine stages its instruction's dispatch, and nothing commits. -/
theorem SoloProgram.step_eq {s t : State} {i : Instr} (h : SoloProgram s i) (hi : exec i (beginCycle s) = .next t) :
    step s = .next (publish t) := by
  have hdecode : decode s.cfg.endWord (fetchWord s) = .ok i := h.atPc ▸ decodeOfEncode _ _ h.decodable
  have hfetch : fetchStep (beginCycle s) = .next t := by
    rw [fetchStep_of_decode (s := beginCycle s) h.quiescent.mayFetch (outOfRange_of_allMemory h.allMemory ..) hdecode,
      hi]
  have f := fetchStep_frame hfetch
  have hrun : t.status = .running := f.status.trans h.quiescent.running
  have hcommit : commitStep t = .next t := commitStep_of_robEmpty (f.cur ▸ h.quiescent.robEmpty)
  rw [step_of_idle h.quiescent.running h.quiescent.idle hfetch hcommit, endCycle_of_running hrun]

theorem SoloProgram.fetchesEnd {s : State} (h : SoloProgram s .endProg) : FetchesEnd s :=
  ⟨h.quiescent.running, h.quiescent.idle, h.quiescent.mayFetch, h.allMemory, h.atPc⟩

/-- An instruction that only moves the pc, as AUIPC in the modes without a write (R166). -/
theorem SoloProgram.halts_of_pc {s : State} {i : Instr} {a : Word} (h : SoloProgram s i)
    (hi : exec i (beginCycle s) = .next (setNextPc a (beginCycle s)))
    (heff : archEffect s.cfg.auipcMode i s.arch = { s.arch with pc := a }) :
    HaltsAs 3 s (archEffect s.cfg.auipcMode i s.arch) := by
  have hidle := h.quiescent.idle
  have hfetch := h.quiescent.mayFetch
  have hend := h.endNext
  rw [heff] at hend ⊢
  have hE : FetchesEnd (publish (setNextPc a (beginCycle s))) :=
    ⟨h.quiescent.running, { hidle with }, { hfetch with }, h.allMemory, hend⟩
  exact .of_step (h.step_eq hi) (hE.halts_of_robEmpty h.quiescent.robEmpty)

/-- `s` one cycle later, where the cycle did nothing but dispatch an instruction with a ready entry (R161, R167). -/
def readyDispatched (rd : Reg) (v a : Word) (s : State) : State :=
  publish (setNextPc a (robAdded (regWriteEntry rd true v) (beginCycle s)))

/-- The dispatched entry has renamed `rd` but written nothing yet. -/
theorem readyDispatched_arch {s : State} (hq : s.cur.lsqEmpty = true) (rd : Reg) (v a : Word) :
    (readyDispatched rd v a s).arch = { s.arch with pc := a } :=
  arch_eq_of_lsqEmpty (s := readyDispatched rd v a s) hq
    (fun r => (robAdded_values _ (beginCycle s) r).trans (arch_x s r).symm) rfl (finalMemory_of_lsqEmpty hq).symm

/-- An instruction that allocates a ready entry for `rd` and moves the pc (R161, R167). -/
theorem SoloProgram.halts_of_dispatchReady {s : State} {i : Instr} {rd : Reg} {v a : Word} (h : SoloProgram s i)
    (hi : exec i (beginCycle s) = dispatchReady rd v a (beginCycle s))
    (heff : archEffect s.cfg.auipcMode i s.arch = { s.arch.write rd v with pc := a }) :
    HaltsAs 3 s (archEffect s.cfg.auipcMode i s.arch) := by
  have hidle := h.quiescent.idle
  have hfetch := h.quiescent.mayFetch
  have he := robHead_eq_robTail h.quiescent.robEmpty
  have hend := h.endNext
  rw [heff] at hend ⊢
  have hE : FetchesEnd (readyDispatched rd v a s) := {
    running := h.quiescent.running
    idle := { hidle with }
    mayFetch := { hfetch with
      notFull := by simp [readyDispatched, Bank.robFull, robAdded, he, BitVec.add_assoc] }
    allMemory := h.allMemory
    atPc := hend }
  have hstep : step s = .next (readyDispatched rd v a s) :=
    h.step_eq (hi.trans (dispatchReady_of_not_full (s := beginCycle s) hfetch.notFull))
  have hhalts := hE.halts_of_registerWrite (rd := rd) (v := v) (by simp [readyDispatched, robAdded, he])
    (by simp [readyDispatched, Bank.robHeadEntry, robAdded, he])
  rw [readyDispatched_arch hidle.lsqEmpty, Arch.write_setPc] at hhalts
  exact .of_step hstep hhalts

/-- AUIPC, by the machine's mode (D7). -/
theorem SoloProgram.auipc_halts {s : State} {rd : Reg} {imm : BitVec 20} (h : SoloProgram s (.auipc rd imm)) :
    HaltsAs 3 s (archEffect s.cfg.auipcMode (.auipc rd imm) s.arch) := by
  cases hm : s.cfg.auipcMode with
  | pcPlusImmNoWrite =>
    exact hm ▸ h.halts_of_pc (execAuipc_pcPlusImmNoWrite (s := beginCycle s) hm rd imm) (by rw [hm]; rfl)
  | pcPlus4NoWrite =>
    exact hm ▸ h.halts_of_pc (execAuipc_pcPlus4NoWrite (s := beginCycle s) hm rd imm) (by rw [hm]; rfl)
  | rv32i =>
    exact hm ▸ h.halts_of_dispatchReady (execAuipc_rv32i (s := beginCycle s) hm rd imm)
      (by rw [hm]; exact Arch.write_advance ..)

/-- Settles O53: END alone is fetched by a machine with nothing in flight; AUIPC by its mode; LUI, JAL and JALR, whose
base is known in a quiet machine, are one dispatch. -/
theorem fetchUnitInstructionsRun : Obligations.FetchUnitInstructionsRun := by
  refine ⟨fun s h => h.fetchesEnd.halts_of_robEmpty h.quiescent.robEmpty, ?_⟩
  intro s rd rs1 immI immU immJ i hi h
  simp only [List.mem_cons, List.not_mem_nil, or_false] at hi
  obtain rfl | rfl | rfl | rfl := hi
  · exact h.halts_of_dispatchReady (rd := rd) rfl (Arch.write_advance ..)
  · exact h.auipc_halts
  · exact h.halts_of_dispatchReady (rd := rd) rfl rfl
  · exact h.halts_of_dispatchReady (execJalr_eq_dispatchReady (s := beginCycle s) h.quiescent.mayFetch.notFull
      (h.quiescent.resolve_eq rs1) rd immI) rfl

end Sys2Proof.Machine
end

section
/-! PROOFS of the family 42_reservation_station_alu.md: the fields of the entries a dispatch builds (O59), wake-up
(O25), issue in scan order (O24), and the two ticks from acceptance to result (O26). The scan is taken apart once
(`issueGrants_getElem?`): an entry's grant is the free unit at its place among the contenders of its class. -/

namespace Sys2Proof.Machine

/-- Settles O59: the fields are those of `rsEntry`, `loadEntry` and `storeEntry` for each form of operand. -/
theorem entryFieldsAtDispatch : Obligations.EntryFieldsAtDispatch := fun _ _ _ _ _ _ _ _ =>
  ⟨rfl, rfl, rfl, rfl, rfl, rfl, rfl, rfl, rfl, rfl⟩

/-! ### Wake-up (R198) -/

/-- The wake-up field by field: an operand whose producer is ready takes its value and waits no longer. -/
theorem wakeRs_eq (rob : Vector RobEntry 32) (e n : RsEntry) :
    let wakes1 := e.q1c && (slotGet rob e.q1).ready
    let wakes2 := e.q2c && (slotGet rob e.q2).ready
    wakeRs rob e n = { n with
      v1 := if wakes1 then (slotGet rob e.q1).value else n.v1
      q1c := n.q1c && !wakes1
      v2 := if wakes2 then (slotGet rob e.q2).value else n.v2
      q2c := n.q2c && !wakes2
      busy := n.q1c && !wakes1 || n.q2c && !wakes2 } := by
  unfold wakeRs
  cases e.q1c && (slotGet rob e.q1).ready <;> cases e.q2c && (slotGet rob e.q2).ready <;> simp

/-- What the RS step makes of a live entry that it does not harvest (R197, R198). -/
theorem rsSlotStep_of_live {b : Bank} {e : RsEntry} (he : e.empty = false) (hh : e.harvested b.fu = false) (g : Bool)
    (n : RsEntry) : rsSlotStep b g e n = { wakeRs b.rob e n with issued := n.issued || g } := by
  cases g <;> simp [rsSlotStep, he, hh, wakeRs_eq]

/-- Settles O25. -/
theorem stationWakeup : Obligations.StationWakeup := by
  intro s k hk hn he hh
  have hwaits (waits ready : Bool) : (waits && !(waits && ready)) = (waits && !ready) := by cases waits <;> rfl
  rw [rsStep_rsAt s hk, hn, rsSlotStep_of_live he hh, wakeRs_eq]
  exact ⟨he, rfl, rfl, hwaits .., rfl, hwaits .., rfl, rfl⟩

/-! ### Issue in scan order (R197) -/

/-- The units after the scan has met an entry of class `c` that wants one. -/
def FuArray.takeFirst (a : FuArray) (c : FuClass) : FuArray :=
  match a.available c with
  | some u => a.take c u
  | none => a

theorem issueGrants_of_issuable (a : FuArray) {e : RsEntry} (h : e.issuable = true) (es : List RsEntry) :
    issueGrants a (e :: es) = a.available (opClass e.op) :: issueGrants (a.takeFirst (opClass e.op)) es := by
  rw [issueGrants, if_pos h, FuArray.takeFirst]
  cases a.available (opClass e.op) <;> rfl

theorem issueGrants_of_not_issuable (a : FuArray) {e : RsEntry} (h : e.issuable = false) (es : List RsEntry) :
    issueGrants a (e :: es) = none :: issueGrants a es := by simp [issueGrants, h]

/-- The unit offered is the first free one. -/
theorem available_eq_freeUnits_head (a : FuArray) (c : FuClass) : a.available c = (a.freeUnits c)[0]? := by
  unfold FuArray.available FuArray.freeUnits
  cases h0 : (a.unit c .u0).busy <;> cases h1 : (a.unit c .u1).busy <;> simp [h0, h1]

/-- Taking the first free unit of a class leaves its other free units, and every other class alone. -/
theorem freeUnits_takeFirst (a : FuArray) (c c' : FuClass) :
    (a.takeFirst c).freeUnits c' = if c' = c then (a.freeUnits c).tail else a.freeUnits c' := by
  unfold FuArray.takeFirst FuArray.available FuArray.take
  by_cases hc : c' = c
  · subst hc
    cases h0 : (a.unit c' .u0).busy <;> cases h1 : (a.unit c' .u1).busy <;>
      simp [FuArray.freeUnits, FuArray.unit_put, h0, h1]
  · cases h0 : (a.unit c .u0).busy <;> cases h1 : (a.unit c .u1).busy <;>
      simp [FuArray.freeUnits, FuArray.unit_put, hc]

/-- The grant of an entry that wants a unit: the free unit of its class at the place given by the entries of that class
scanned before it (D12). -/
theorem issueGrants_getElem? {a : FuArray} {es : List RsEntry} {k : Nat} {e : RsEntry} (he : es[k]? = some e)
    (hi : e.issuable = true) :
    (issueGrants a es)[k]? = some ((a.freeUnits (opClass e.op))[
      ((es.take k).filter fun e' => e'.issuable && opClass e'.op == opClass e.op).length]?) := by
  induction es generalizing a k with
  | nil => simp at he
  | cons e' es ih =>
    cases k with
    | zero =>
      obtain rfl : e' = e := by simpa using he
      rw [issueGrants_of_issuable a hi, available_eq_freeUnits_head]
      rfl
    | succ k =>
      have he : es[k]? = some e := by simpa using he
      cases hi' : e'.issuable with
      | false =>
        rw [issueGrants_of_not_issuable a hi', List.getElem?_cons_succ, ih he]
        simp [hi']
      | true =>
        rw [issueGrants_of_issuable a hi', List.getElem?_cons_succ, ih he, freeUnits_takeFirst]
        by_cases hc : opClass e.op = opClass e'.op
        · simp [hi', hc]
        · simp [hi', hc, Ne.symm hc]

theorem grant_of_issuable {b : Bank} {k : Nat} (hk : k < b.rs.length) (hi : (b.rsAt k).issuable = true) :
    b.grant k = (b.fu.freeUnits (opClass (b.rsAt k).op))[contendersBelow b (opClass (b.rsAt k).op) k]? := by
  simp [Bank.grant, List.getD, issueGrants_getElem? (rsAt_getElem? hk) hi, contendersBelow]

theorem live_of_issuable {e : RsEntry} (hi : e.issuable = true) (fu : FuArray) :
    e.empty = false ∧ e.harvested fu = false := by
  simp only [RsEntry.issuable, Bool.and_eq_true, Bool.not_eq_true'] at hi
  obtain ⟨⟨he, -⟩, hissued⟩ := hi
  exact ⟨he, by simp [RsEntry.harvested, hissued]⟩

/-- Settles O24: the entry is issued exactly when it is granted a unit. -/
theorem issueInScanOrder : Obligations.IssueInScanOrder := by
  intro s k hlen hk hi
  have hgrant := grant_of_issuable hk hi
  obtain ⟨he, hh⟩ := live_of_issuable hi s.cur.fu
  have hissued : ((rsStep s).nxt.rsAt k).issued = ((s.nxt.rsAt k).issued || (s.cur.grant k).isSome) := by
    rw [rsStep_rsAt s (hlen ▸ hk), rsSlotStep_of_live he hh]
    rfl
  refine ⟨fun u hu => ⟨?_, ?_⟩, fun hnone => ?_⟩
  · exact (granted_accepts (rsAt_getElem? hk) (grant_eq_some.mp (hgrant.trans hu))).2
  · simp [hissued, hgrant.trans hu]
  · simp [hissued, hgrant.trans hnone]

/-! ### The result of a unit in the reorder buffer (R196) -/

/-- A slot that a harvested unit names holds the value on which all its units agree. -/
theorem foldl_robResult_value {l : List Fu} {r : Vector RobEntry 32} {t : Slot} {v : Word}
    (hall : ∀ g ∈ l, g.finished = true → g.index = t → g.result = v)
    (h : (slotGet r t).value = v ∨ ∃ g ∈ l, g.finished = true ∧ g.index = t) :
    (slotGet (l.foldl (fun r f => if f.finished then robResult r f.index f.result else r) r) t).value = v := by
  induction l generalizing r with
  | nil => simpa using h
  | cons f l ih =>
    obtain ⟨hf, hl⟩ := List.forall_mem_cons.mp hall
    refine ih hl ?_
    by_cases hft : f.finished = true ∧ f.index = t
    · obtain ⟨hfin, rfl⟩ := hft
      exact .inl (by simp [hfin, robResult, hf hfin rfl])
    · refine h.imp (fun hv => ?_) fun ⟨g, hg, hgt⟩ => ?_
      · dsimp only
        split
        · next hfin =>
          rw [robResult, slotGet_slotSet_ne _ _ fun ht => hft ⟨hfin, ht.symm⟩]
          exact hv
        · exact hv
      · rcases List.mem_cons.mp hg with rfl | hg
        · exact absurd hgt hft
        · exact ⟨g, hg, hgt⟩

/-- Under the invariant a busy unit's result is what the harvest leaves in its RoB slot. -/
theorem UnitsOk.harvestRob_value {b : Bank} (h : UnitsOk b) {c : FuClass} {u : FuInst}
    (hb : (b.fu.unit c u).busy = true) (r : Vector RobEntry 32) :
    (slotGet (harvestRob b.fu r) (b.fu.unit c u).index).value = (b.fu.unit c u).result := by
  have hmem : b.fu.unit c u ∈ b.fu.units := mem_units.mpr ⟨c, u, rfl⟩
  refine foldl_robResult_value (fun g hg hfin hidx => ?_)
    (.inr ⟨_, hmem, (h.busyIffFinished _ hmem).symm.trans hb, rfl⟩)
  obtain ⟨c', u', rfl⟩ := mem_units.mp hg
  obtain ⟨rfl, rfl⟩ := h.indicesDistinct c' c u' u ((h.busyIffFinished _ hg).trans hfin) hb hidx
  rfl

/-- The commit step writes no entry of the reorder buffer. -/
theorem commitStep_rob {s t : State} (h : commitStep s = .next t) : t.nxt.rob = s.nxt.rob := by
  rcases commitStep_cases h with ⟨-, rfl⟩ | ⟨-, -, ⟨-, h⟩ | ⟨-, h⟩ | ⟨-, h⟩ | ⟨-, h⟩⟩
  · rfl
  · cases h
    rw [robPop_nxt, regWrite_nxt]
  · obtain ⟨-, rfl⟩ := commitStore_eq_next h
    rfl
  · rcases commitBranch_cases h with rfl | rfl
    · rw [robPop_nxt, predUpdate_nxt]
    · rw [flushMispredicted_nxt, flushBank, truncateLsq_eq, predUpdate_nxt]
  · cases h
    rfl

/-- A published cycle's reorder buffer is one into which the finished units have written. -/
theorem step_rob_harvested {s t : State} (h : step s = .next t) (hrun : t.status = .running) :
    ∃ r, t.cur.rob = harvestRob s.cur.fu r := by
  obtain ⟨-, s1, s2, s3, h1, h2, h3, rfl⟩ := step_cases h
  rw [endCycle_status] at hrun
  obtain ⟨-, hcur, -⟩ := step_units_cur h1 h2
  rw [endCycle_of_running hrun, publish_cur, ← hcur]
  exact ⟨_, commitStep_rob h3⟩

/-! ### Two ticks (R200) -/

/-- A published cycle after which a RoB slot is occupied was no flush. -/
theorem step_advance_of_occupied {s t : State} (hr : RatOk s.cur) (h : step s = .next t) (hrun : t.status = .running)
    {i : Slot} (hi : t.cur.robOccupied i = true) :
    ∃ st pop, StagingOk s.cfg s.cur st ∧ Advance s.cfg s.cur st pop t.cur := by
  rcases step_advance hr h with hcur | ⟨st, hst, ⟨pop, hA⟩ | ⟨m, j, a, clock, -, hflush⟩⟩
  · obtain ⟨-, -, hclock, -⟩ := clockCountsPublishedCycles s t h
    have := hclock hrun
    rw [hcur] at this
    omega
  · exact ⟨st, pop, hst, hA⟩
  · rw [hflush] at hi
    exact absurd hi (not_robOccupied_of_empty (flushBank_flushed s.cfg j a m).rob i)

section
variable {c : Config} {b n : Bank} {st : Staging} {pop : Bool} (hA : Advance c b st pop n)
include hA

/-- A finished unit is idle after the cycle: it is harvested, and was not free for the scan (R196, D13). -/
theorem Advance.finished_unit_idle {cl : FuClass} {u : FuInst} (hb : (b.fu.unit cl u).busy = true)
    (hf : (b.fu.unit cl u).finished = true) : n.fu.unit cl u = Fu.idle := by
  rw [hA.fu, acceptAll_of_busy hb, harvestFu_unit, idleIfFinished, if_pos hf]

/-- A harvested entry's slot is free after the cycle (R196). -/
theorem Advance.harvested_empty (hst : StagingOk c b st) {k : Nat} (hk : k < b.rs.length)
    (hh : (b.rsAt k).harvested b.fu = true) : (n.rsAt k).empty = true := by
  rcases hA.rs_cases hst hk with ⟨entry, hp⟩ | ⟨he, hn⟩ | ⟨-, -, hn⟩ | ⟨-, hnh, -⟩
  · simp [RsEntry.harvested, (hst.station _ _ _ hp).free] at hh
  · rw [hn, he]
  · rw [hn]
  · exact absurd (hnh.symm.trans hh) (by decide)

end

/-- Settles O26: the first cycle grants the unit, the second harvests it. -/
theorem unitLatencyIsTwoTicks : Obligations.UnitLatencyIsTwoTicks := by
  intro s s1 s2 k u hI h1 h2 hrun1 hrun2 hk hi hu hocc1 hocc2
  have hI1 := (stepKeepsInv s s1 hI h1).bank
  obtain ⟨st, pop, hst, hA⟩ := step_advance_of_occupied hI.rat h1 hrun1 hocc1
  obtain ⟨st', pop', hst', hA'⟩ := step_advance_of_occupied hI1.rat h2 hrun2 hocc2
  have hgrant := (grant_of_issuable hk hi).trans hu
  have hunit := (hA.granted_unit hk hgrant).2
  obtain ⟨-, hlive, hissued, hrob, -⟩ := hA.granted_entry hst hk hgrant
  have hpending := (hA.live_slot hI.bank hst hk hlive).2.1
  have hk1 : k < s1.cur.rs.length := by rwa [hA.rsLength]
  have hharvested := harvested_of_issued hI1 hk1 hlive hissued
  have hbusy : (s1.cur.fu.unit (opClass (s.cur.rsAt k).op) u).busy = true := by rw [hunit]; rfl
  have hfinished : (s1.cur.fu.unit (opClass (s.cur.rsAt k).op) u).finished = true := by rw [hunit]; rfl
  have hready := (hA'.ready_iff hocc1).mpr (.inr (.inl (hrob ▸ unitFinishes_of_harvested hharvested)))
  obtain ⟨r, hr⟩ := step_rob_harvested h2 hrun2
  have hvalue := hI1.units.harvestRob_value hbusy r
  rw [hunit, ← hr] at hvalue
  rw [hrob] at hpending
  exact ⟨hunit, hpending, hready, hvalue, by rw [hA'.finished_unit_idle hbusy hfinished]; rfl,
    hA'.harvested_empty hst' hk1 hharvested⟩

end Sys2Proof.Machine
end

section
/-! PROOFS of the family 43_integer_computational.md: words that decode to their instructions (O4), the rules of the 19
computational instructions (O7, O8, O9), and their runs from a quiet machine to the halt (O54). A run is one dispatch
(`stationDispatched`), the cycle that fetches END and issues the instruction (`issuedState`), the one that harvests its
result (`executedState`), its commit, and the halt on the END behind it (`EndFollows`). -/

namespace Sys2Proof.Machine

/-! ### What the operations compute, in arithmetic and bits (R221, R222) -/

theorem boolWord_signedLess (a b : Word) : boolWord (signedLess a b) = if a.toInt < b.toInt then 1#32 else 0#32 := by
  simp [boolWord, signedLess]

theorem boolWord_unsignedLess (a b : Word) :
    boolWord (unsignedLess a b) = if a.toNat < b.toNat then 1#32 else 0#32 := by
  simp [boolWord, unsignedLess]

theorem sub_eq_ofInt (a b : Word) : a - b = BitVec.ofInt 32 ((a.toNat : Int) - (b.toNat : Int)) := by
  refine BitVec.eq_of_toNat_eq ?_
  rw [BitVec.toNat_sub, BitVec.toNat_ofInt]
  omega

/-- Only the low five bits of the second operand count (D9). -/
theorem shiftAmount_eq (b : Word) : shiftAmount b = b.toNat % 32 := by
  simp [shiftAmount]

theorem shiftLeft_eq_mul (a b : Word) : shiftLeft a b = BitVec.ofNat 32 (a.toNat * 2 ^ (b.toNat % 32)) := by
  refine BitVec.eq_of_toNat_eq ?_
  rw [shiftLeft, shiftAmount_eq, BitVec.toNat_shiftLeft, Nat.shiftLeft_eq, BitVec.toNat_ofNat]

theorem shiftRightLogical_eq_div (a b : Word) :
    shiftRightLogical a b = BitVec.ofNat 32 (a.toNat / 2 ^ (b.toNat % 32)) := by
  rw [shiftRightLogical, shiftAmount_eq, ← Nat.shiftRight_eq_div_pow, ← BitVec.toNat_ushiftRight, BitVec.ofNat_toNat,
    BitVec.setWidth_eq]

theorem shiftRightArith_eq_div (a b : Word) :
    shiftRightArith a b = BitVec.ofInt 32 (a.toInt / (2 ^ (b.toNat % 32) : Int)) := by
  have h := BitVec.toInt_sshiftRight (x := a) (n := b.toNat % 32)
  rw [Int.shiftRight_eq_div_pow] at h
  rw [shiftRightArith, shiftAmount_eq, ← BitVec.ofInt_toInt (x := a.sshiftRight _), h]
  norm_cast

/-! ### The rules of the 19 computational instructions (R223 to R241) -/

theorem Arch.compute_eq (a : Arch) (op : RsOp) (rd : Reg) (u v : Word) :
    a.compute op rd u v = { a.write rd (execute op u v) with pc := a.pc + 4#32 } := Arch.write_advance ..

/-- Settles O4, by evaluating the decoder on the words. -/
theorem decodeWordsOfTheSpec : Obligations.DecodeWordsOfTheSpec := by
  unfold Obligations.DecodeWordsOfTheSpec
  decide

/-- Settles O7. -/
theorem arithmeticImmediateRules : Obligations.ArithmeticImmediateRules := fun _ _ _ _ _ _ a b =>
  ⟨⟨rfl, rfl, BitVec.add_def a b, Arch.compute_eq ..⟩,
    ⟨rfl, rfl, boolWord_signedLess a b, Arch.compute_eq ..⟩,
    ⟨rfl, rfl, boolWord_unsignedLess a b, Arch.compute_eq ..⟩,
    ⟨rfl, rfl, fun _ => BitVec.getLsbD_xor, Arch.compute_eq ..⟩,
    ⟨rfl, rfl, fun _ => BitVec.getLsbD_or, Arch.compute_eq ..⟩,
    ⟨rfl, rfl, fun _ => BitVec.getLsbD_and, Arch.compute_eq ..⟩⟩

/-- Settles O8. -/
theorem shiftRules : Obligations.ShiftRules := fun _ _ _ _ _ _ _ a b =>
  ⟨⟨rfl, rfl, shiftLeft_eq_mul a b, Arch.compute_eq ..⟩,
    ⟨rfl, rfl, shiftRightLogical_eq_div a b, Arch.compute_eq ..⟩,
    ⟨rfl, rfl, shiftRightArith_eq_div a b, Arch.compute_eq ..⟩,
    ⟨rfl, rfl, shiftLeft_eq_mul a b, Arch.compute_eq ..⟩,
    ⟨rfl, rfl, shiftRightLogical_eq_div a b, Arch.compute_eq ..⟩,
    ⟨rfl, rfl, shiftRightArith_eq_div a b, Arch.compute_eq ..⟩⟩

/-- Settles O9. -/
theorem registerOperationRules : Obligations.RegisterOperationRules := fun _ _ _ _ _ _ a b =>
  ⟨⟨rfl, rfl, BitVec.add_def a b, Arch.compute_eq ..⟩,
    ⟨rfl, rfl, sub_eq_ofInt a b, Arch.compute_eq ..⟩,
    ⟨rfl, rfl, boolWord_signedLess a b, Arch.compute_eq ..⟩,
    ⟨rfl, rfl, boolWord_unsignedLess a b, Arch.compute_eq ..⟩,
    ⟨rfl, rfl, fun _ => BitVec.getLsbD_xor, Arch.compute_eq ..⟩,
    ⟨rfl, rfl, fun _ => BitVec.getLsbD_or, Arch.compute_eq ..⟩,
    ⟨rfl, rfl, fun _ => BitVec.getLsbD_and, Arch.compute_eq ..⟩⟩

/-! ### The station with one live entry (R195) -/

/-- The RS step where slot 0 alone may hold an entry: the slots behind it are left as they are. -/
theorem rsStep_of_lone {s : State} {e : RsEntry} {es : List RsEntry} (hrs : s.cur.rs = e :: es)
    (hes : ∀ e' ∈ es, e'.empty = true) (hnrs : s.nxt.rs = s.cur.rs) :
    rsStep s = { s with
      nxt.rob := harvestRob s.cur.fu s.nxt.rob
      nxt.fu := acceptAll (harvestFu s.cur.fu s.nxt.fu) s.cur.rs (issueGrants s.cur.fu s.cur.rs)
      nxt.rs := rsSlotStep s.cur (s.cur.grant 0).isSome e e :: es } := by
  have hrest (g : Nat → Bool) : es.mapIdx (fun k n => rsSlotStep s.cur (g k) (s.cur.rsAt (k + 1)) n) = es := by
    refine List.mapIdx_eq_iff.mpr fun k => ?_
    rcases hk : es[k]? with _ | e'
    · rfl
    · have hempty := hes e' (List.mem_of_getElem? hk)
      simp [rsSlotStep, Bank.rsAt, hrs, List.getD, hk, hempty]
  have h0 : s.cur.rsAt 0 = e := by simp [Bank.rsAt, hrs]
  simp only [rsStep, Bank.grant, hnrs, hrs, List.mapIdx_cons, h0, hrest]

/-- The one live entry, its operands resolved, is granted unit 0 of its class (R197). -/
theorem rsStep_issues {s : State} {es : List RsEntry} {op : RsOp} {t : Slot} {x y : Word}
    (hrs : s.cur.rs = rsEntry op t (.value x) (.value y) :: es) (hes : ∀ e ∈ es, e.empty = true)
    (hunits : ∀ f ∈ s.cur.fu.units, f.busy = false ∧ f.finished = false)
    (hnrs : s.nxt.rs = s.cur.rs) (hnfu : s.nxt.fu = s.cur.fu) :
    rsStep s = { s with
      nxt.fu := s.cur.fu.put (opClass op) .u0 (acceptedFu (rsEntry op t (.value x) (.value y)))
      nxt.rs := { rsEntry op t (.value x) (.value y) with issued := true } :: es } := by
  obtain ⟨hrob, hfu⟩ := harvest_of_none_finished fun f hf => (hunits f hf).2
  have hrest : ∀ e ∈ es, e.issuable = false := fun e he => by simp [RsEntry.issuable, hes e he]
  have hissuable : (rsEntry op t (.value x) (.value y)).issuable = true := rfl
  have havail : s.cur.fu.available (opClass op) = some .u0 := by
    simp [FuArray.available, (hunits _ (mem_units.mpr ⟨opClass op, .u0, rfl⟩)).1]
  have hgrants : issueGrants s.cur.fu s.cur.rs
      = some .u0 :: issueGrants (s.cur.fu.takeFirst (opClass op)) es := by
    rw [hrs, issueGrants_of_issuable _ hissuable]
    exact congrArg (· :: _) havail
  have hgrant : s.cur.grant 0 = some .u0 := by simp [Bank.grant, hgrants]
  obtain ⟨hlive, hkept⟩ := live_of_issuable hissuable s.cur.fu
  have hslot : rsSlotStep s.cur true (rsEntry op t (.value x) (.value y)) (rsEntry op t (.value x) (.value y))
      = { rsEntry op t (.value x) (.value y) with issued := true } := rsSlotStep_of_live hlive hkept true _
  rw [rsStep_of_lone hrs hes hnrs, hrob, hnfu, hfu, hgrants, hgrant, Option.isSome_some, hslot, hrs, acceptAll,
    acceptAll_of_none_issuable _ _ hrest]
  rfl

/-- One tick later the unit's result goes to the entry's RoB slot, and the unit and the slot are free again (R196). -/
theorem rsStep_harvests {s : State} {fu : FuArray} {e : RsEntry} {es : List RsEntry}
    (hrs : s.cur.rs = { e with empty := false, issued := true } :: es) (hes : ∀ e ∈ es, e.empty = true)
    (hidle : ∀ f ∈ fu.units, f.finished = false) (hfu : s.cur.fu = fu.put (opClass e.op) .u0 (acceptedFu e))
    (hnrs : s.nxt.rs = s.cur.rs) (hnfu : s.nxt.fu = s.cur.fu) :
    rsStep s = { s with
      nxt.rob := robResult s.nxt.rob e.rob (execute e.op e.v1 e.v2)
      nxt.fu := fu.put (opClass e.op) .u0 Fu.idle
      nxt.rs := { e with empty := true, issued := true } :: es } := by
  have hnone : ∀ e' ∈ s.cur.rs, e'.issuable = false := by
    rw [hrs]
    exact List.forall_mem_cons.mpr ⟨by simp [RsEntry.issuable], fun e' he => by simp [RsEntry.issuable, hes e' he]⟩
  have hunit : s.cur.fu.unit (opClass e.op) .u0 = acceptedFu e := by rw [hfu, FuArray.unit_put, if_pos ⟨rfl, rfl⟩]
  have hharvested : RsEntry.harvested { e with empty := false, issued := true } s.cur.fu = true := by
    have hfinished : ∃ f ∈ s.cur.fu.units, f.finished = true ∧ f.index = e.rob :=
      ⟨_, mem_units.mpr ⟨_, _, hunit⟩, rfl, rfl⟩
    simpa [RsEntry.harvested] using hfinished
  simp only [FuArray.units, List.forall_mem_cons] at hidle
  have hrob : harvestRob s.cur.fu s.nxt.rob = robResult s.nxt.rob e.rob (execute e.op e.v1 e.v2) := by
    rw [hfu]
    cases opClass e.op <;> simp [harvestRob, FuArray.units, FuArray.put, FuPair.put, hidle, acceptedFu]
  have hfu' : harvestFu s.cur.fu s.cur.fu = fu.put (opClass e.op) .u0 Fu.idle := by
    rw [hfu]
    cases opClass e.op <;> simp [harvestFu, idleIfFinished, FuArray.put, FuPair.put, hidle, acceptedFu]
  rw [rsStep_of_lone hrs hes hnrs, hnfu, acceptAll_of_none_issuable _ _ hnone, hrob, hfu']
  simp [rsSlotStep, hharvested]

/-! ### From the station to the reorder buffer, with END fetched meanwhile (R160, R173, R196, R197) -/

theorem lsqStep_of_queue_idle {s : State} (hq : s.cur.lsqEmpty = true) (hi : s.cur.lsqInflight = false) :
    lsqStep s = .next s := by
  rw [lsqStep, lsqWake_of_lsqEmpty hq]
  simp [memPipeline, hi, hq]

/-- A cycle that finds the queue empty and the head not ready is its fetch step and its RS step (R130). -/
theorem step_of_pending {s t : State} (hs : s.status = .running) (hq : s.cur.lsqEmpty = true)
    (hi : s.cur.lsqInflight = false) (hp : s.cur.robHeadEntry.ready = false)
    (hfetch : fetchStep (beginCycle s) = .next t) : step s = .next (publish (rsStep t)) := by
  have f := fetchStep_frame hfetch
  have hcur : (rsStep t).cur = s.cur := f.cur
  have hrun : (rsStep t).status = .running := f.status.trans hs
  have hcommit : commitStep (rsStep t) = .next (rsStep t) := by
    unfold Bank.robHeadEntry at hp
    simp [commitStep, f.cur, hp]
  rw [step_of_units hs (lsqStep_of_queue_idle (s := beginCycle s) hq hi) hfetch hcommit, endCycle_of_running hrun]

/-- One instruction is in flight, at the head of the reorder buffer and in slot 0 of the station with its operands
resolved, and the fetch unit is about to fetch END. -/
structure InStation (s : State) (op : RsOp) (x y : Word) (es : List RsEntry) : Prop where
  running : s.status = .running
  lsqEmpty : s.cur.lsqEmpty = true
  notInflight : s.cur.lsqInflight = false
  station : s.cur.rs = rsEntry op s.cur.robHead (.value x) (.value y) :: es
  restEmpty : ∀ e ∈ es, e.empty = true
  unitsIdle : ∀ f ∈ s.cur.fu.units, f.busy = false ∧ f.finished = false
  pending : s.cur.robHeadEntry.ready = false
  last : s.cur.robHead + 1#5 = s.cur.robTail
  mayFetch : s.cur.MayFetch
  allMemory : 2 ^ 32 ≤ s.cfg.memSize
  atPc : fetchWord s = s.cfg.endWord

/-- `s` one cycle later: END is in the reorder buffer, and a unit has accepted the instruction (R160, R197). -/
def issuedState (s : State) (op : RsOp) (x y : Word) (es : List RsEntry) : State :=
  publish { endFetched s with
    nxt.fu := s.cur.fu.put (opClass op) .u0 (acceptedFu (rsEntry op s.cur.robHead (.value x) (.value y)))
    nxt.rs := { rsEntry op s.cur.robHead (.value x) (.value y) with issued := true } :: es }

/-- `s` two cycles later: the result is in the reorder buffer, station and units are empty (R196). -/
def executedState (s : State) (op : RsOp) (x y : Word) (es : List RsEntry) : State :=
  publish { beginCycle (issuedState s op x y es) with
    nxt.rob := robResult (issuedState s op x y es).cur.rob s.cur.robHead (execute op x y)
    nxt.fu := s.cur.fu.put (opClass op) .u0 Fu.idle
    nxt.rs := { rsEntry op s.cur.robHead (.value x) (.value y) with empty := true, issued := true } :: es }

section
variable {s : State} {op : RsOp} {x y : Word} {es : List RsEntry} (h : InStation s op x y es)
include h

theorem InStation.step_eq : step s = .next (issuedState s op x y es) := by
  have hdecode : decode s.cfg.endWord (fetchWord s) = .ok .endProg := h.atPc ▸ decode_endWord _
  have hfetch : fetchStep (beginCycle s) = .next (endFetched s) := by
    rw [fetchStep_of_decode (s := beginCycle s) h.mayFetch (outOfRange_of_allMemory h.allMemory _ _) hdecode]
    exact execEnd_stages h.mayFetch.notFull
  rw [step_of_pending h.running h.lsqEmpty h.notInflight h.pending hfetch,
    rsStep_issues (s := endFetched s) h.station h.restEmpty h.unitsIdle rfl rfl]
  rfl

/-- END has been put behind the instruction, which is as it was. -/
theorem InStation.issued_rob (t : Slot) : slotGet (issuedState s op x y es).cur.rob t
    = if t = s.cur.robHead + 1#5 then endEntry else slotGet s.cur.rob t := by
  rw [h.last]
  exact slotGet_slotSet ..

theorem InStation.issued_step_eq : step (issuedState s op x y es) = .next (executedState s op x y es) := by
  have hhead : (issuedState s op x y es).cur.robHeadEntry = s.cur.robHeadEntry :=
    (h.issued_rob s.cur.robHead).trans (if_neg (by simp))
  have hpending : (issuedState s op x y es).cur.robHeadEntry.ready = false := hhead ▸ h.pending
  rw [step_of_pending (s := issuedState s op x y es) h.running h.lsqEmpty h.notInflight hpending
      (fetchStep_of_stopped rfl),
    rsStep_harvests (s := beginCycle (issuedState s op x y es)) (fu := s.cur.fu)
      (e := rsEntry op s.cur.robHead (.value x) (.value y)) rfl h.restEmpty (fun f hf => (h.unitsIdle f hf).2)
      rfl rfl rfl]
  rfl

end

/-! ### END behind one entry that is ready (R160, R315) -/

/-- END has stopped fetching and stands behind one entry of the reorder buffer; nothing else is in flight. -/
structure EndFollows (s : State) : Prop where
  running : s.status = .running
  idle : s.cur.Idle
  stopped : s.cur.fetchStopped = true
  second : slotGet s.cur.rob (s.cur.robHead + 1#5) = endEntry
  last : s.cur.robHead + 1#5 + 1#5 = s.cur.robTail

theorem idle_units_put {fu : FuArray} (h : ∀ f ∈ fu.units, f.finished = false) (c : FuClass) (u : FuInst) :
    ∀ f ∈ (fu.put c u Fu.idle).units, f.finished = false := by
  intro f hf
  obtain ⟨c', u', rfl⟩ := mem_units.mp hf
  rw [FuArray.unit_put]
  split
  · rfl
  · exact h _ (mem_units.mpr ⟨c', u', rfl⟩)

section
variable {s : State} {op : RsOp} {x y : Word} {es : List RsEntry} (h : InStation s op x y es)
include h

theorem InStation.endFollows : EndFollows (executedState s op x y es) where
  running := h.running
  idle := ⟨h.lsqEmpty, h.notInflight, List.forall_mem_cons.mpr ⟨rfl, h.restEmpty⟩,
    idle_units_put (fun f hf => (h.unitsIdle f hf).2) _ _⟩
  stopped := rfl
  second := by
    have hne : s.cur.robHead + 1#5 ≠ s.cur.robHead := by simp
    exact (slotGet_slotSet_ne _ _ hne).trans ((h.issued_rob _).trans (if_pos rfl))
  last := congrArg (· + 1#5) h.last

/-- The result stands in the instruction's entry (R196). -/
theorem InStation.executed_head : (executedState s op x y es).cur.robHeadEntry
    = { s.cur.robHeadEntry with value := execute op x y, ready := true } := by
  have hne : s.cur.robHead ≠ s.cur.robHead + 1#5 := by simp
  refine (slotGet_slotSet_same ..).trans ?_
  rw [h.issued_rob, if_neg hne]
  rfl

theorem InStation.executed_arch : (executedState s op x y es).arch = s.arch :=
  arch_eq_of_lsqEmpty (s := executedState s op x y es) h.lsqEmpty (fun r => (arch_x s r).symm) rfl
    (finalMemory_of_lsqEmpty h.lsqEmpty).symm

/-- An instruction in the station reaches the head of the reorder buffer as a ready entry in two cycles (R200). -/
theorem InStation.halts {n : Nat} {a : Arch} (hn : HaltsAs n (executedState s op x y es) a) : HaltsAs (n + 2) s a :=
  .of_step h.step_eq (.of_step h.issued_step_eq hn)

end

theorem commitStep_of_regWriteEntry {s : State} {rd : Reg} {v : Word} (hne : s.cur.robEmpty = false)
    (hhead : s.cur.robHeadEntry = regWriteEntry rd true v) :
    commitStep s = .next (robPop (regWrite rd v s.cur.robHead s)) := by
  have hc : s.cur.commits = true := (commits_iff s.cur).mpr ⟨hne, by rw [hhead]; rfl⟩
  rw [commitStep_of_registerWrite hc (by rw [hhead]; rfl), hhead, commitRegister, regWriteEntry, setWidth_dest]

/-- Where the entry before END commits without a flush and leaves the registers of `a`, END halts the machine with `a`
in the next cycle (R315, R321). -/
theorem EndFollows.halts {s t : State} {a : Arch} (h : EndFollows s) (hcommit : commitStep (beginCycle s) = .next t)
    (hs : t.status = .running)
    (hn : t.nxt = { s.cur with
      reg := t.nxt.reg, robHead := s.cur.robHead + 1#5, pred := t.nxt.pred, predCorrect := t.nxt.predCorrect,
      predIncorrect := t.nxt.predIncorrect })
    (hx : ∀ i, (slotGet t.nxt.reg i).value = slotGet a.x i) (hpc : s.cur.pc = a.pc) (hmem : s.mem = a.mem) :
    HaltsAs 2 s a := by
  obtain ⟨-, -, hm⟩ := commitStep_keeps hcommit
  have hpub : (publish t).cur = { s.cur with
      reg := t.nxt.reg, robHead := s.cur.robHead + 1#5, pred := t.nxt.pred, predCorrect := t.nxt.predCorrect,
      predIncorrect := t.nxt.predIncorrect, clock := t.cur.clock + 1 } := by rw [publish_cur, hn]
  have hidle : (publish t).cur.Idle := by rw [hpub]; exact { h.idle with }
  have hend : EndsNext (publish t) := {
    running := hs
    idle := hidle
    stopped := by rw [hpub]; exact h.stopped
    notEmpty := by rw [hpub]; simp [Bank.robEmpty, ← h.last]
    head := by rw [hpub]; exact h.second }
  have harch : (publish t).arch = a := by
    refine arch_eq_of_lsqEmpty hidle.lsqEmpty hx ?_ (hm.trans hmem)
    rw [hpub]
    exact hpc
  rw [← harch]
  refine .of_step ?_ hend.halts
  rw [step_of_idle h.running h.idle (fetchStep_of_stopped (s := beginCycle s) h.stopped) hcommit,
    endCycle_of_running hs]

/-- The entry before END is one of an instruction that writes `v` to `rd` (R317). -/
theorem EndFollows.halts_of_registerWrite {s : State} {rd : Reg} {v : Word} (h : EndFollows s)
    (hhead : s.cur.robHeadEntry = regWriteEntry rd true v) : HaltsAs 2 s (s.arch.write rd v) := by
  have hne : s.cur.robEmpty = false := by simp [Bank.robEmpty, ← h.last, BitVec.add_assoc]
  refine h.halts (commitStep_of_regWriteEntry (s := beginCycle s) hne hhead) ?_ ?_ (fun r => ?_) ?_ ?_
  · exact (regWrite_status ..).trans h.running
  · rw [robPop_nxt, regWrite_nxt, regWrite_cur]
    rfl
  · rw [Arch.write_x, arch_x]
    exact regWrite_value ..
  · rw [Arch.write_pc]
    rfl
  · rw [Arch.write_mem]
    exact (finalMemory_of_lsqEmpty h.idle.lsqEmpty).symm

/-! ### The runs of the computational instructions (R220, R406) -/

/-- `s` one cycle later, where the cycle did nothing but dispatch an instruction with the entry `e` and resolved
operands to slot 0 of the station, and move the pc to `a` (R170, R173). -/
def stationDispatched (e : RobEntry) (op : RsOp) (x y a : Word) (s : State) : State :=
  publish (setNextPc a (rsPush 0 (rsEntry op s.cur.robTail (.value x) (.value y)) (robAdded e (beginCycle s))))

theorem stationDispatched_arch {s : State} (hq : s.cur.lsqEmpty = true) (e : RobEntry) (op : RsOp) (x y a : Word) :
    (stationDispatched e op x y a s).arch = { s.arch with pc := a } :=
  arch_eq_of_lsqEmpty (s := stationDispatched e op x y a s) hq
    (fun r => (robAdded_values e (beginCycle s) r).trans (arch_x s r).symm) rfl (finalMemory_of_lsqEmpty hq).symm

theorem stationDispatched_head {s : State} (he : s.cur.robEmpty = true) (e : RobEntry) (op : RsOp) (x y a : Word) :
    (stationDispatched e op x y a s).cur.robHeadEntry = e := by
  simp [stationDispatched, Bank.robHeadEntry, robAdded, robHead_eq_robTail he]

/-- The station of a quiet machine with the invariant has a slot 0, and every slot is free (R32, D4). -/
theorem SoloProgram.station_cons {s : State} {i : Instr} (h : SoloProgram s i) :
    ∃ e es, s.cur.rs = e :: es ∧ e.empty = true ∧ ∀ e' ∈ es, e'.empty = true := by
  have hempty := h.quiescent.rsEmpty
  have hlen : 1 ≤ s.cur.rs.length := h.inv.shaped.rsLength ▸ h.inv.valid.1
  cases hrs : s.cur.rs with
  | nil => simp [hrs] at hlen
  | cons e es =>
    rw [hrs] at hempty
    exact ⟨e, es, rfl, List.forall_mem_cons.mp hempty⟩

/-- The cycle after a dispatch to the station of a quiet machine, where END stands at the next pc. -/
theorem SoloProgram.inStation {s : State} {i : Instr} (h : SoloProgram s i) {r : RsEntry} {es : List RsEntry}
    (hrs : s.cur.rs = r :: es) (hes : ∀ e' ∈ es, e'.empty = true) {e : RobEntry} (he : e.ready = false) (op : RsOp)
    (x y : Word) {a : Word} (hend : memRead4 s.mem a = s.cfg.endWord) :
    InStation (stationDispatched e op x y a s) op x y es := by
  have hcursor := robHead_eq_robTail h.quiescent.robEmpty
  have hfetch := h.quiescent.mayFetch
  exact {
    running := h.quiescent.running
    lsqEmpty := h.quiescent.lsqEmpty
    notInflight := h.quiescent.notInflight
    station := by simp [stationDispatched, robAdded, hrs, hcursor]
    restEmpty := hes
    unitsIdle := h.quiescent.unitsIdle
    pending := by rw [stationDispatched_head h.quiescent.robEmpty, he]
    last := congrArg (· + 1#5) hcursor
    mayFetch := { hfetch with
      notFull := by simp [stationDispatched, Bank.robFull, robAdded, hcursor, BitVec.add_assoc] }
    allMemory := h.allMemory
    atPc := hend }

/-- The run of an instruction that is dispatched to the station with its operands resolved (R173): fetched, issued,
harvested, committed, and END in the fifth cycle. -/
theorem SoloProgram.halts_of_dispatchComputational {s : State} {i : Instr} {op : RsOp} {rd rs1 : Reg} {o2 : Operand}
    {y : Word} (h : SoloProgram s i) (ho2 : o2 = .value y)
    (hi : exec i (beginCycle s) = dispatchComputational op rd (resolve (beginCycle s) rs1) o2 (beginCycle s))
    (heff : archEffect s.cfg.auipcMode i s.arch = s.arch.compute op rd (s.arch.read rs1) y) :
    HaltsAs 5 s (archEffect s.cfg.auipcMode i s.arch) := by
  obtain ⟨r, es, hrs, hr, hes⟩ := h.station_cons
  have hend := h.endNext
  rw [heff, Arch.compute_eq] at hend ⊢
  have hfree : freeRsSlot (beginCycle s).cur.rs = some 0 := by
    simp [freeRsSlot, hrs, hr, List.findIdx?_cons]
  have hstep := h.step_eq
    (hi.trans (dispatchComputational_of_room (s := beginCycle s) h.quiescent.mayFetch.notFull hfree))
  rw [h.quiescent.resolve_eq, ho2] at hstep
  have hst := h.inStation hrs hes (e := regWriteEntry rd false 0#32) rfl op (s.arch.read rs1) y
    (a := s.cur.pc + 4#32) hend
  have hhalts := hst.endFollows.halts_of_registerWrite (rd := rd) (v := execute op (s.arch.read rs1) y) (by
    rw [hst.executed_head, stationDispatched_head h.quiescent.robEmpty]
    rfl)
  rw [hst.executed_arch, stationDispatched_arch h.quiescent.lsqEmpty, Arch.write_setPc] at hhalts
  exact .of_step hstep (hst.halts hhalts)

/-- Settles O54: the 19 are one dispatch, of an immediate or of a register that a quiet machine resolves. -/
theorem computationalInstructionsRun : Obligations.ComputationalInstructionsRun := by
  intro s rd rs1 rs2 imm shamt i hi h
  rcases List.mem_append.mp hi with himm | hreg
  · simp only [List.mem_cons, List.not_mem_nil, or_false] at himm
    rcases himm with rfl | rfl | rfl | rfl | rfl | rfl | rfl | rfl | rfl <;>
      exact h.halts_of_dispatchComputational rfl rfl rfl
  · have hr2 := h.quiescent.resolve_eq rs2
    simp only [List.mem_cons, List.not_mem_nil, or_false] at hreg
    rcases hreg with rfl | rfl | rfl | rfl | rfl | rfl | rfl | rfl | rfl | rfl <;>
      exact h.halts_of_dispatchComputational hr2 rfl rfl

end Sys2Proof.Machine
end

section
/-! PROOFS of the family 44_branches.md: the rules of the six branches (O10), and their runs from a quiet machine to the
halt (O55). A run is that of a computational instruction up to the commit, with END fetched on the predicted path. A
right prediction leaves that END to halt the machine (`EndFollows.halts_of_right_prediction`); a wrong one empties the
machine, which then fetches the END on the other path (`EndFollows.halts_of_misprediction`). -/

namespace Sys2Proof.Machine

/-! ### The conditions of the six branches (R251 to R256) -/

theorem boolWord_decide (c : Prop) [Decidable c] : boolWord (decide c) = if c then 1#32 else 0#32 := by
  simp [boolWord]

theorem execute_beq (a b : Word) : execute .beq a b = boolWord (decide (a = b)) := rfl

theorem execute_bne (a b : Word) : execute .bne a b = boolWord (decide (a ≠ b)) :=
  congrArg boolWord decide_not.symm

theorem execute_blt (a b : Word) : execute .blt a b = boolWord (decide (a.toInt < b.toInt)) := rfl

theorem execute_bge (a b : Word) : execute .bge a b = boolWord (decide (a.toInt ≥ b.toInt)) := by
  simp [execute, signedLess, ← decide_not]

theorem execute_bltu (a b : Word) : execute .bltu a b = boolWord (decide (a.toNat < b.toNat)) := rfl

theorem execute_bgeu (a b : Word) : execute .bgeu a b = boolWord (decide (a.toNat ≥ b.toNat)) := by
  simp [execute, unsignedLess, ← decide_not]

/-- The effect of a branch, where its operation answers the condition `taken` (R257). -/
theorem Arch.branch_eq {a : Arch} {op : RsOp} {rs1 rs2 : Reg} {taken : Bool}
    (h : execute op (a.read rs1) (a.read rs2) = boolWord taken) (imm : BitVec 13) :
    a.branch op rs1 rs2 imm = { a with pc := if taken then a.pc + imm.signExtend 32 else a.pc + 4#32 } := by
  rw [Arch.branch, h]
  cases taken <;> rfl

/-- Settles O10. -/
theorem branchRules : Obligations.BranchRules := fun _ _ _ imm _ _ a b =>
  ⟨⟨rfl, rfl, (execute_beq a b).trans (boolWord_decide _), Arch.branch_eq (execute_beq ..) imm⟩,
    ⟨rfl, rfl, (execute_bne a b).trans (boolWord_decide _), Arch.branch_eq (execute_bne ..) imm⟩,
    ⟨rfl, rfl, (execute_blt a b).trans (boolWord_decide _), Arch.branch_eq (execute_blt ..) imm⟩,
    ⟨rfl, rfl, (execute_bge a b).trans (boolWord_decide _), Arch.branch_eq (execute_bge ..) imm⟩,
    ⟨rfl, rfl, (execute_bltu a b).trans (boolWord_decide _), Arch.branch_eq (execute_bltu ..) imm⟩,
    ⟨rfl, rfl, (execute_bgeu a b).trans (boolWord_decide _), Arch.branch_eq (execute_bgeu ..) imm⟩⟩

/-- A branch operation answers 1 or 0, so that "not 0" is its condition (R319). -/
theorem execute_of_isBranch {op : RsOp} (h : op.isBranch = true) (a b : Word) :
    execute op a b = boolWord (execute op a b != 0#32) := by
  have hcond (c : Bool) : boolWord c = boolWord (boolWord c != 0#32) := by cases c <;> rfl
  cases op with
  | beq | bne | blt | bge | bltu | bgeu => exact hcond _
  | _ => cases h

/-! ### A flush with nothing in the queue (R322, R283) -/

theorem truncateFrom_of_lsqEmpty {c : Config} {b : Bank} (h : b.lsqEmpty = true) (fuel : Nat) :
    truncateFrom c b fuel b.lsqHead = b.lsqTail := by
  rw [beq_iff_eq.mp h]
  cases fuel <;> simp [truncateFrom]

section
variable {c : Config} {b n : Bank} (hF : Flushed c b n)
include hF

theorem Flushed.idle (h : b.lsqEmpty = true) : n.Idle := by
  have htail : n.lsqTail = b.lsqTail := hF.lsqTail.trans (truncateFrom_of_lsqEmpty h _)
  have hcursors : b.lsqHead = b.lsqTail := beq_iff_eq.mp h
  exact {
    lsqEmpty := by simp [Bank.lsqEmpty, hF.lsqHead, htail, hcursors]
    notInflight := by
      by_contra hin
      exact (hF.inflight (by simpa using hin)).1 (hcursors.trans htail.symm)
    rsEmpty := fun _ he => hF.rs_empty he
    noneFinished := by rw [hF.fu]; decide }

theorem Flushed.robEmpty : n.robEmpty = true := beq_iff_eq.mpr hF.rob

theorem Flushed.mayFetch : n.MayFetch :=
  ⟨by simp [Bank.robFull, hF.rob], hF.fetchStopped, hF.jalrWait⟩

end

theorem flushBank_pc (c : Config) (h : Slot) (a : Word) (b : Bank) : (flushBank c h a b).pc = a := by
  rw [flushBank, truncateLsq_eq]

/-! ### The commit of a branch (R319) -/

theorem commitBranch_right {e : RobEntry} (s : State) (h : (e.value != 0#32) = e.predicted) :
    commitBranch e s = .next (robPop (predUpdate e.baddr (e.value != 0#32) s)) := by
  rw [commitBranch, if_pos h]

theorem commitBranch_wrong {e : RobEntry} (s : State) (h : (e.value != 0#32) ≠ e.predicted) :
    commitBranch e s = .next (flushMispredicted e (predUpdate e.baddr (e.value != 0#32) s)) := by
  rw [commitBranch, if_neg h]

section
variable {s : State} (h : EndFollows s) (hr : s.cur.robHeadEntry.ready = true)
  (hk : s.cur.robHeadEntry.kind = .branch)
include h hr hk

theorem EndFollows.commitStep_eq : commitStep (beginCycle s) = commitBranch s.cur.robHeadEntry (beginCycle s) := by
  have hne : s.cur.robEmpty = false := by simp [Bank.robEmpty, ← h.last, BitVec.add_assoc]
  unfold Bank.robHeadEntry at hr hk ⊢
  simp [commitStep, hne, hr, hk]

/-- The predicted path was right: the END on it halts the machine. -/
theorem EndFollows.halts_of_right_prediction
    (hp : (s.cur.robHeadEntry.value != 0#32) = s.cur.robHeadEntry.predicted) : HaltsAs 2 s s.arch := by
  refine h.halts ((h.commitStep_eq hr hk).trans (commitBranch_right _ hp)) ?_ ?_ (fun r => ?_) rfl
    (finalMemory_of_lsqEmpty h.idle.lsqEmpty).symm
  · exact (predUpdate_status ..).trans h.running
  · rw [robPop_nxt, predUpdate_nxt, predUpdate_cur]
    rfl
  · rw [robPop_nxt, predUpdate_nxt, arch_x]
    rfl

end

/-- `s` one cycle later, where the branch at the head has committed and its prediction was wrong (R319, R322). -/
def recoveredState (s : State) : State :=
  let e := s.cur.robHeadEntry
  publish (flushMispredicted e (predUpdate e.baddr (e.value != 0#32) (beginCycle s)))

/-- The training of the predictor is not seen by the flush. -/
theorem recoveredState_flushed (s : State) : Flushed s.cfg s.cur (recoveredState s).cur := by
  have hF := flushBank_flushed s.cfg s.cur.robHead s.cur.robHeadEntry.correctTarget
    (predUpdate s.cur.robHeadEntry.baddr (s.cur.robHeadEntry.value != 0#32) (beginCycle s)).nxt
  rw [recoveredState, publish_cur, flushMispredicted_nxt, predUpdate_cfg, predUpdate_cur]
  rw [predUpdate_nxt] at hF ⊢
  exact { hF with lsqTail := hF.lsqTail.trans (truncateFrom_congr (b := s.cur) (by rfl) (by rfl) ..) }

theorem recoveredState_pc (s : State) : (recoveredState s).cur.pc = s.cur.robHeadEntry.correctTarget := flushBank_pc ..

theorem recoveredState_cfg (s : State) : (recoveredState s).cfg = s.cfg := predUpdate_cfg ..

theorem recoveredState_mem (s : State) : (recoveredState s).mem = s.mem := predUpdate_mem ..

theorem recoveredState_arch {s : State} (h : s.cur.lsqEmpty = true) :
    (recoveredState s).arch = { s.arch with pc := s.cur.robHeadEntry.correctTarget } := by
  have hF := recoveredState_flushed s
  refine arch_eq_of_lsqEmpty (hF.idle h).lsqEmpty (fun r => ?_) (recoveredState_pc s) ?_
  · rw [hF.clean, arch_x]
  · rw [recoveredState_mem]
    exact (finalMemory_of_lsqEmpty h).symm

section
variable {s : State} (h : EndFollows s) (hr : s.cur.robHeadEntry.ready = true)
  (hk : s.cur.robHeadEntry.kind = .branch)
  (hp : (s.cur.robHeadEntry.value != 0#32) ≠ s.cur.robHeadEntry.predicted)
include h hr hk hp

theorem EndFollows.step_eq_recoveredState : step s = .next (recoveredState s) := by
  have hs : (recoveredState s).status = .running := (predUpdate_status ..).trans h.running
  exact (step_of_idle h.running h.idle (fetchStep_of_stopped (s := beginCycle s) h.stopped)
    ((h.commitStep_eq hr hk).trans (commitBranch_wrong _ hp))).trans (congrArg _ (endCycle_of_running hs))

/-- The predicted path was wrong: the flush takes one cycle, and the machine fetches the END on the right path. -/
theorem EndFollows.halts_of_misprediction (hall : 2 ^ 32 ≤ s.cfg.memSize)
    (hend : memRead4 s.mem s.cur.robHeadEntry.correctTarget = s.cfg.endWord) :
    HaltsAs 3 s { s.arch with pc := s.cur.robHeadEntry.correctTarget } := by
  have hF := recoveredState_flushed s
  have hE : FetchesEnd (recoveredState s) := {
    running := (predUpdate_status ..).trans h.running
    idle := hF.idle h.idle.lsqEmpty
    mayFetch := hF.mayFetch
    allMemory := by rwa [recoveredState_cfg]
    atPc := by rwa [fetchWord, recoveredState_mem, recoveredState_pc, recoveredState_cfg] }
  rw [← recoveredState_arch h.idle.lsqEmpty]
  exact .of_step (h.step_eq_recoveredState hr hk hp) (hE.halts_of_robEmpty hF.robEmpty)

end

/-! ### The runs of the branches (R250, R324, R406) -/

/-- The run of a branch: fetched, issued, harvested, committed, and END in the fifth cycle, or in the sixth where the
commit flushes. -/
theorem SoloProgram.halts_of_dispatchBranch {s : State} {i : Instr} {op : RsOp} {rs1 rs2 : Reg} {imm : BitVec 13}
    (h : SoloProgram s i) (hop : op.isBranch = true)
    (hi : exec i (beginCycle s) = dispatchBranch op rs1 rs2 (immSext13 imm) (beginCycle s))
    (heff : archEffect s.cfg.auipcMode i s.arch = s.arch.branch op rs1 rs2 imm)
    (hnext : memRead4 s.mem (s.cur.pc + 4#32) = s.cfg.endWord)
    (htarget : memRead4 s.mem (s.cur.pc + immSext13 imm) = s.cfg.endWord) :
    HaltsAs (if predict s s.cur.pc = (execute op (s.arch.read rs1) (s.arch.read rs2) != 0#32) then 5 else 6) s
      (archEffect s.cfg.auipcMode i s.arch) := by
  have hboth (p : Bool) :
      memRead4 s.mem (if p then s.cur.pc + immSext13 imm else s.cur.pc + 4#32) = s.cfg.endWord := by
    cases p
    · exact hnext
    · exact htarget
  obtain ⟨r, es, hrs, hr, hes⟩ := h.station_cons
  have hfree : freeRsSlot (beginCycle s).cur.rs = some 0 := by
    simp [freeRsSlot, hrs, hr, List.findIdx?_cons]
  have hstep := h.step_eq (hi.trans (dispatchBranch_of_room (s := beginCycle s) h.quiescent.mayFetch.notFull hfree))
  rw [h.quiescent.resolve_eq, h.quiescent.resolve_eq] at hstep
  have hst := h.inStation hrs hes
    (e := branchEntry (predict s s.cur.pc) (s.cur.pc + immSext13 imm) s.cur.pc) rfl op
    (s.arch.read rs1) (s.arch.read rs2) (hboth (predict s s.cur.pc))
  have hhead := hst.executed_head
  have harch := hst.executed_arch
  rw [stationDispatched_head h.quiescent.robEmpty] at hhead
  rw [stationDispatched_arch h.quiescent.lsqEmpty] at harch
  have hready := congrArg RobEntry.ready hhead
  have hkind := congrArg RobEntry.kind hhead
  rw [heff, Arch.branch_eq (execute_of_isBranch hop ..)]
  split
  · next hright =>
    have hhalts := hst.endFollows.halts_of_right_prediction hready hkind (by rw [hhead]; exact hright.symm)
    rw [harch] at hhalts
    rw [← hright]
    exact .of_step hstep (hst.halts hhalts)
  · next hwrong =>
    have hhalts := hst.endFollows.halts_of_misprediction hready hkind (by rw [hhead]; exact Ne.symm hwrong)
      h.allMemory (by rw [hhead]; exact hboth _)
    rw [harch, hhead] at hhalts
    exact .of_step hstep (hst.halts hhalts)

/-- Settles O55: the six are one dispatch, of an operation that answers its condition. -/
theorem branchesRun : Obligations.BranchesRun := by
  intro s rs1 rs2 imm i op hi h hnext htarget
  simp only [List.mem_cons, Prod.mk.injEq, List.not_mem_nil, or_false] at hi
  rcases hi with ⟨rfl, rfl⟩ | ⟨rfl, rfl⟩ | ⟨rfl, rfl⟩ | ⟨rfl, rfl⟩ | ⟨rfl, rfl⟩ | ⟨rfl, rfl⟩ <;>
    exact h.halts_of_dispatchBranch rfl rfl rfl hnext htarget

end Sys2Proof.Machine
end

section
/-! PROOFS of the family 45_load_store_queue.md: the rules of the loads and stores (O11), the wake-up of a queue slot
(O27), the cases of the memory pipeline (O29), and the runs of the loads (O56) and of the stores (O57) from a quiet
machine to the halt. In a run the queue holds one entry with its operands resolved (`LoneInQueue`), and END is fetched
in the cycle after its dispatch. A load's access then counts down, delivers and leaves its entry to commit
(`EndFollowsAccess`); a store reports, commits, and is still queued when END halts the machine (`EndFollowsStore`). -/

namespace Sys2Proof.Machine

/-! ### The rules of the loads and stores (R285 to R292) -/

/-- Settles O11. -/
theorem loadStoreRules : Obligations.LoadStoreRules := fun _ _ _ _ _ _ _ =>
  ⟨⟨rfl, Arch.write_advance ..⟩, ⟨rfl, Arch.write_advance ..⟩, ⟨rfl, Arch.write_advance ..⟩,
    ⟨rfl, Arch.write_advance ..⟩, ⟨rfl, Arch.write_advance ..⟩, ⟨rfl, rfl⟩, ⟨rfl, rfl⟩, ⟨rfl, rfl⟩⟩

/-! ### Wake-up (R276) -/

/-- The wake-up field by field: an operand whose producer is ready takes its value and waits no longer, and a load
whose base arrives becomes ready. -/
theorem wakeLsq_eq (rob : Vector RobEntry 32) (e n : LsqEntry) :
    let wakesBase := e.basec && (slotGet rob e.baseq).ready
    let wakesValue := e.valuec && (slotGet rob e.valueq).ready
    wakeLsq rob e n = { n with
      base := if wakesBase then (slotGet rob e.baseq).value else n.base
      basec := n.basec && !wakesBase
      ready := n.ready || (wakesBase && e.type.isLoad)
      value := if wakesValue then (slotGet rob e.valueq).value else n.value
      valuec := n.valuec && !wakesValue } := by
  unfold wakeLsq
  cases e.basec && (slotGet rob e.baseq).ready <;> cases e.valuec && (slotGet rob e.valueq).ready <;>
    simp [Bool.or_comm]

/-- Settles O27. -/
theorem queueWakeup : Obligations.QueueWakeup := by
  intro s i hi hsame e n baseNow valueNow
  have hn : n = if s.cur.lsqOccupied s.cfg i then wakeLsq s.cur.rob e e else e := by
    exact (lsqWake_lsqAt s hi).trans (by rw [hsame])
  constructor
  · intro hfree
    rw [hn, hfree]
    rfl
  · intro hocc
    rw [hn, if_pos hocc]
    exact wakeLsq_eq s.cur.rob e e

/-! ### The memory pipeline (R280) -/

/-- A load's access delivers the extended value of its bytes (R272, D29). -/
theorem performAccess_of_isLoad {e : LsqEntry} (h : e.type.isLoad = true) (s : State) :
    performAccess e s = deliverLoad e.rob (loadedValue s.mem e.type e.addr) s := by
  unfold performAccess
  cases hty : e.type with
  | lb | lh | lw | lbu | lhu => rfl
  | sb | sh | sw => rw [hty] at h; cases h

/-- A store's access writes its bytes (R67, R75). -/
theorem performAccess_of_isStore {e : LsqEntry} (h : e.type.isStore = true) (s : State) :
    performAccess e s = { s with mem := storeEffect e s.mem } := by
  unfold performAccess
  cases hty : e.type with
  | lb | lh | lw | lbu | lhu => rw [hty] at h; cases h
  | sb | sh | sw => rfl

theorem performs_iff (b : Bank) : b.performs = true ↔ b.lsqInflight = true ∧ b.lsqCount = 0#2 := by
  simp [Bank.performs]

theorem memPipeline_of_counting {s : State} (hi : s.cur.lsqInflight = true) (hc : s.cur.lsqCount ≠ 0#2) :
    memPipeline s = .next { s with nxt.lsqCount := s.cur.lsqCount - 1#2 } := by
  simp [memPipeline, hi, hc]

theorem memPipeline_of_inRange {s : State} (hp : s.cur.performs = true)
    (hin : outOfRange s.cfg (s.cur.lsqAt s.cur.lsqHead).addr (s.cur.lsqAt s.cur.lsqHead).type.bytes = none) :
    memPipeline s = .next { performAccess (s.cur.lsqAt s.cur.lsqHead) s with
      nxt.lsqHead := lsqNext s.cfg s.cur.lsqHead
      nxt.lsqInflight := false } := by
  obtain ⟨hi, hc⟩ := (performs_iff s.cur).mp hp
  simp [memPipeline, hi, hc, hin]

theorem memPipeline_of_outOfRange {s : State} {a : Nat} (hp : s.cur.performs = true)
    (hout : outOfRange s.cfg (s.cur.lsqAt s.cur.lsqHead).addr (s.cur.lsqAt s.cur.lsqHead).type.bytes = some a) :
    memPipeline s = .fault (.fatal (.memRange a)) := by
  obtain ⟨hi, hc⟩ := (performs_iff s.cur).mp hp
  simp [memPipeline, hi, hc, hout, raiseFatal]

theorem memPipeline_starts {s : State} (hi : s.cur.lsqInflight = false) (he : s.cur.lsqEmpty = false)
    (hr : (s.cur.lsqAt s.cur.lsqHead).ready = true) :
    memPipeline s = .next { s with nxt.lsqInflight := true, nxt.lsqCount := memCountdown } := by
  simp [memPipeline, hi, he, hr]

theorem memPipeline_waits {s : State} (hi : s.cur.lsqInflight = false)
    (h : s.cur.lsqEmpty = true ∨ (s.cur.lsqAt s.cur.lsqHead).ready = false) : memPipeline s = .next s := by
  rcases h with h | h <;> simp [memPipeline, hi, h]

/-- Settles O29, by the branches of the pipeline: count down, access, fault, start, wait. -/
theorem memoryPipelineCases : Obligations.MemoryPipelineCases := by
  intro s h a
  refine ⟨memPipeline_of_counting, fun hp hin => ?_, fun hp i hi hout hfirst => ?_, memPipeline_starts,
    memPipeline_waits⟩
  · have haccess := memPipeline_of_inRange hp (outOfRange_eq_none hin)
    refine ⟨fun hload => ?_, fun hstore => ⟨storeEffect h s.mem, ?_, fun hm i hi => ?_, fun x hx => ?_⟩⟩
    · rw [haccess, performAccess_of_isLoad hload]
      rfl
    · rw [haccess, performAccess_of_isStore hstore]
      rfl
    · exact readByte_memWrite_inside hm a h.value ((LsqType.bytes_le _).trans (by decide)) hi
    · exact readByte_memWrite_outside s.mem a _ h.value hx
  · exact memPipeline_of_outOfRange hp (outOfRange_eq_some hi hout hfirst)

/-! ### A queue with one entry, its operands resolved (R34, R276, R277) -/

/-- The queue of `b` holds the entry `e` alone, which waits for no operand. -/
structure LoneInQueue (c : Config) (b : Bank) (e : LsqEntry) : Prop where
  valid : c.Valid
  length : b.lsq.length = c.lsqSize
  headIn : b.lsqHead < c.lsqSize
  tail : b.lsqTail = lsqNext c b.lsqHead
  head : b.lsqAt b.lsqHead = e
  base : e.basec = false
  value : e.valuec = false

section
variable {c : Config} {b : Bank} {e : LsqEntry} (h : LoneInQueue c b e)
include h

theorem LoneInQueue.countOcc : b.lsqCountOcc c = 1 := by
  have hage := lsqAge_head (b := b) h.headIn
  obtain ⟨-, hroom, -⟩ := h.valid
  rw [Bank.lsqCountOcc, h.tail, lsqAge_next h.headIn h.headIn (by omega), hage]

theorem LoneInQueue.occupied_iff (i : Nat) : b.lsqOccupied c i = true ↔ i = b.lsqHead := by
  have hage := lsqAge_head (b := b) h.headIn
  have hin := h.headIn
  simp only [Bank.lsqOccupied, h.countOcc, Bool.and_eq_true, decide_eq_true_eq]
  constructor
  · rintro ⟨hi, hlt⟩
    exact (lsqAge_inj h.headIn hi h.headIn).mp (by omega)
  · rintro rfl
    exact ⟨hin, by omega⟩

theorem LoneInQueue.occupied_head : b.lsqOccupied c b.lsqHead = true := (h.occupied_iff _).mpr rfl

theorem LoneInQueue.notEmpty : b.lsqEmpty = false := by
  have htail := not_lsqOccupied_tail c b
  rw [h.occupied_iff] at htail
  exact beq_false_of_ne (Ne.symm htail)

theorem LoneInQueue.order : lsqOrder c b = [b.lsqHead] := by
  simp [lsqOrder, h.countOcc, Nat.mod_eq_of_lt h.headIn]

/-- Only the one entry may report (R277). -/
theorem LoneInQueue.reportStores_eq (r : Vector RobEntry 32) :
    reportStores c b r = if e.reports then robMarkReady r e.rob else r := by
  have hacts (i : Nat) : (b.lsqOccupied c i && (b.lsqAt i).reports) = (e.reports && i == b.lsqHead) := by
    rw [Bool.eq_iff_iff, Bool.and_eq_true, Bool.and_eq_true, h.occupied_iff, beq_iff_eq, and_comm]
    exact and_congr_left fun hi => by rw [hi, h.head]
  have hfilter : (List.range c.lsqSize).filter (fun i => b.lsqOccupied c i && (b.lsqAt i).reports)
      = if e.reports then [b.lsqHead] else [] := by
    cases hr : e.reports <;> simp [hacts, hr, List.filter_beq, List.count_range, h.headIn]
  unfold reportStores
  rw [← List.foldl_filter (f := fun r i => robMarkReady r (b.lsqAt i).rob), hfilter]
  split
  · rw [List.foldl_cons, List.foldl_nil, h.head]
  · rfl

end

/-- The wake-up has nothing to bring to the one entry, which may report (R276, R277). -/
theorem lsqWake_of_lone {s : State} {e : LsqEntry} (h : LoneInQueue s.cfg s.cur e) :
    lsqWake s = { s with nxt.rob := if e.reports then robMarkReady s.nxt.rob e.rob else s.nxt.rob } := by
  have hslot (i : Nat) (n : LsqEntry) :
      (if s.cur.lsqOccupied s.cfg i = true then wakeLsq s.cur.rob (s.cur.lsqAt i) n else n) = n := by
    split
    · next hi =>
      rw [(h.occupied_iff i).mp hi, h.head]
      simp [wakeLsq_eq, h.base, h.value]
    · rfl
  simp only [lsqWake, hslot, mapIdx_unchanged, h.reportStores_eq]

/-- The final memory with one store left in the queue (R321). -/
theorem finalMemory_of_lone {s : State} {e : LsqEntry} (h : LoneInQueue s.cfg s.cur e) :
    finalMemory s = storeEffect e s.mem := by
  rw [finalMemory, h.order, List.foldl_cons, List.foldl_nil, h.head]

/-! ### A cycle in which the station is idle (R195) -/

/-- Station and units have nothing to do in a cycle from this bank. -/
structure Bank.StationIdle (b : Bank) : Prop where
  rsEmpty : ∀ e ∈ b.rs, e.empty = true
  noneFinished : ∀ f ∈ b.fu.units, f.finished = false

/-- The RS step does not look at the queue. -/
theorem rsStep_of_stationIdle {s : State} (h : s.cur.StationIdle) : rsStep s = s := by
  have hidle : rsStep { s with cur.lsqTail := s.cur.lsqHead, cur.lsqInflight := false }
      = { s with cur.lsqTail := s.cur.lsqHead, cur.lsqInflight := false } :=
    rsStep_of_idle ⟨by simp [Bank.lsqEmpty], rfl, h.rsEmpty, h.noneFinished⟩
  exact congrArg (fun t : State => { s with nxt := t.nxt }) hidle

theorem step_of_stationIdle {s s1 s2 s3 : State} (hs : s.status = .running) (h : s.cur.StationIdle)
    (h1 : lsqStep (beginCycle s) = .next s1) (h2 : fetchStep s1 = .next s2) (h3 : commitStep s2 = .next s3) :
    step s = .next (endCycle s3) := by
  obtain ⟨-, hcur, -⟩ := step_units_cur h1 h2
  exact step_of_units hs h1 h2 (by rwa [rsStep_of_stationIdle (hcur ▸ h)])

theorem commitStep_of_pending {s : State} (h : s.cur.robHeadEntry.ready = false) : commitStep s = .next s := by
  unfold Bank.robHeadEntry at h
  simp [commitStep, h]

/-- With nothing to commit either, a cycle is its LSQ step and its fetch step. -/
theorem step_of_stationIdle_pending {s s1 s2 : State} (hs : s.status = .running) (h : s.cur.StationIdle)
    (hp : s.cur.robHeadEntry.ready = false) (h1 : lsqStep (beginCycle s) = .next s1) (h2 : fetchStep s1 = .next s2) :
    step s = .next (publish s2) := by
  obtain ⟨-, hcur, -⟩ := step_units_cur h1 h2
  have hrun : s2.status = .running := (fetchStep_frame h2).status.trans ((lsqStep_frame h1).status.trans hs)
  rw [step_of_stationIdle hs h h1 h2 (commitStep_of_pending (hcur ▸ hp)), endCycle_of_running hrun]

/-! ### From the dispatch to the queue, with END fetched meanwhile (R160, R171, R172) -/

/-- `s` with the fetch of END staged (R160). -/
def endStaged (s : State) : State := { stageEntry endEntry s with nxt.fetchStopped := true }

theorem fetchStep_of_endWord {s : State} (hf : s.cur.MayFetch) (hall : 2 ^ 32 ≤ s.cfg.memSize)
    (hat : fetchWord s = s.cfg.endWord) : fetchStep s = .next (endStaged s) := by
  have hdecode : decode s.cfg.endWord (fetchWord s) = .ok .endProg := hat ▸ decode_endWord _
  rw [fetchStep_of_decode hf (outOfRange_of_allMemory hall _ _) hdecode]
  exact execEnd_stages hf.notFull

/-- One instruction is in flight, at the head of the reorder buffer and alone in the queue with its operands resolved,
and the fetch unit is about to fetch END. -/
structure InQueue (s : State) (e : LsqEntry) : Prop where
  running : s.status = .running
  stationIdle : s.cur.StationIdle
  lone : LoneInQueue s.cfg s.cur e
  owner : e.rob = s.cur.robHead
  notInflight : s.cur.lsqInflight = false
  pending : s.cur.robHeadEntry.ready = false
  last : s.cur.robHead + 1#5 = s.cur.robTail
  mayFetch : s.cur.MayFetch
  allMemory : 2 ^ 32 ≤ s.cfg.memSize
  atPc : fetchWord s = s.cfg.endWord

/-- `s` one cycle later, where the cycle did nothing but dispatch an instruction with the entries `e` and `q` and move
the pc to `a` (R171, R172). -/
def queueDispatched (e : RobEntry) (q : LsqEntry) (a : Word) (s : State) : State :=
  publish (setNextPc a (lsqPush q (robAdded e (beginCycle s))))

theorem queueDispatched_head {s : State} (he : s.cur.robEmpty = true) (e : RobEntry) (q : LsqEntry) (a : Word) :
    (queueDispatched e q a s).cur.robHeadEntry = e := by
  simp [queueDispatched, Bank.robHeadEntry, robAdded, robHead_eq_robTail he]

theorem queueDispatched_x (e : RobEntry) (q : LsqEntry) (a : Word) (s : State) :
    (queueDispatched e q a s).arch.x = s.arch.x :=
  slot_ext fun r => (arch_x _ r).trans ((robAdded_values e (beginCycle s) r).trans (arch_x s r).symm)

theorem Inv.lsqFull_of_lsqEmpty {s : State} (h : Inv s) (hq : s.cur.lsqEmpty = true) :
    s.cur.lsqFull s.cfg = false := by
  have hcursors : s.cur.lsqHead = s.cur.lsqTail := beq_iff_eq.mp hq
  obtain ⟨-, hroom, -⟩ := h.valid
  have hnext := lsqNext_cases h.shaped.lsqTailIn
  refine beq_false_of_ne ?_
  rw [hcursors]
  omega

/-- The cycle after a dispatch to the queue of a quiet machine, where END stands at the next pc. -/
theorem SoloProgram.inQueue {s : State} {i : Instr} (h : SoloProgram s i) {e : RobEntry} {q : LsqEntry}
    (he : e.ready = false) (hrob : q.rob = s.cur.robTail) (hbase : q.basec = false) (hvalue : q.valuec = false)
    {a : Word} (hend : memRead4 s.mem a = s.cfg.endWord) : InQueue (queueDispatched e q a s) q := by
  have hcursor := robHead_eq_robTail h.quiescent.robEmpty
  have hqueue : s.cur.lsqHead = s.cur.lsqTail := beq_iff_eq.mp h.quiescent.lsqEmpty
  have hfetch := h.quiescent.mayFetch
  have hidle := h.quiescent.idle
  have hshaped := h.inv.shaped
  exact {
    running := h.quiescent.running
    stationIdle := { hidle with }
    lone := {
      valid := h.inv.valid
      length := (List.length_set ..).trans hshaped.lsqLength
      headIn := hshaped.lsqHeadIn
      tail := congrArg (lsqNext s.cfg) hqueue.symm
      head := by
        refine (getD_set s.cur.lsq q LsqEntry.reset ?_).trans (if_pos hqueue)
        exact hshaped.lsqLength ▸ hshaped.lsqHeadIn
      base := hbase
      value := hvalue }
    owner := hrob.trans hcursor.symm
    notInflight := h.quiescent.notInflight
    pending := by rw [queueDispatched_head h.quiescent.robEmpty, he]
    last := congrArg (· + 1#5) hcursor
    mayFetch := { hfetch with
      notFull := by simp [queueDispatched, Bank.robFull, robAdded, hcursor, BitVec.add_assoc] }
    allMemory := h.allMemory
    atPc := hend }

/-- The queue's part of a cycle, where its one entry has nothing to report. -/
theorem lsqStep_of_lone {s : State} {e : LsqEntry} (h : LoneInQueue s.cfg s.cur e) (hr : e.reports = false) :
    lsqStep s = memPipeline s := by
  rw [lsqStep, lsqWake_of_lone h, hr]
  rfl

/-- END has stopped fetching and stands behind one entry of the reorder buffer, and `e` is alone in the queue; nothing
else is in flight. -/
structure EndFollowsQueued (s : State) (e : LsqEntry) : Prop where
  running : s.status = .running
  stationIdle : s.cur.StationIdle
  lone : LoneInQueue s.cfg s.cur e
  stopped : s.cur.fetchStopped = true
  second : slotGet s.cur.rob (s.cur.robHead + 1#5) = endEntry
  last : s.cur.robHead + 1#5 + 1#5 = s.cur.robTail

/-- `s` one cycle later: END is in the reorder buffer, and the LSQ step has left the reorder buffer `r`, and the access
in flight and its countdown as given (R36, R160, R274). -/
def queueActed (r : Vector RobEntry 32) (inflight : Bool) (count : BitVec 2) (s : State) : State :=
  publish (endStaged { beginCycle s with nxt.rob := r, nxt.lsqInflight := inflight, nxt.lsqCount := count })

/-- The registers and the pc of the architectural view, with memory as it stands, after the dispatch and a cycle of the
queue. -/
theorem queueActed_arch (r : Vector RobEntry 32) (inflight : Bool) (count : BitVec 2) (e : RobEntry) (q : LsqEntry)
    (a : Word) (s : State) (m : Memory) :
    { (queueActed r inflight count (queueDispatched e q a s)).arch with mem := m }
      = { s.arch with pc := a, mem := m } := congrArg (Arch.mk · a m) (queueDispatched_x e q a s)

section
variable {s : State} {e : LsqEntry} (h : InQueue s e) (r : Vector RobEntry 32) (inflight : Bool) (count : BitVec 2)
include h

theorem InQueue.step_eq (h1 : lsqStep (beginCycle s)
      = .next { beginCycle s with nxt.rob := r, nxt.lsqInflight := inflight, nxt.lsqCount := count }) :
    step s = .next (queueActed r inflight count s) :=
  step_of_stationIdle_pending h.running h.stationIdle h.pending h1 (fetchStep_of_endWord h.mayFetch h.allMemory h.atPc)

theorem InQueue.queueActed_rob (t : Slot) : slotGet (queueActed r inflight count s).cur.rob t
    = if t = s.cur.robHead + 1#5 then endEntry else slotGet r t := by
  rw [h.last]
  exact slotGet_slotSet ..

theorem InQueue.queueActed_head : (queueActed r inflight count s).cur.robHeadEntry = slotGet r s.cur.robHead :=
  (h.queueActed_rob r inflight count s.cur.robHead).trans (if_neg (by simp))

theorem InQueue.endFollowsQueued : EndFollowsQueued (queueActed r inflight count s) e :=
  have hidle := h.stationIdle
  have hlone := h.lone
  { running := h.running
    stationIdle := { hidle with }
    lone := { hlone with }
    stopped := rfl
    second := (h.queueActed_rob r inflight count _).trans (if_pos rfl)
    last := congrArg (· + 1#5) h.last }

end

/-! ### The access of a load (R280, R281) -/

/-- The access of the load `e` is under way, for the entry at the head of the reorder buffer. -/
structure EndFollowsAccess (s : State) (e : LsqEntry) : Prop extends EndFollowsQueued s e where
  isLoad : e.type.isLoad = true
  owner : e.rob = s.cur.robHead
  inflight : s.cur.lsqInflight = true
  pending : s.cur.robHeadEntry.ready = false
  allMemory : 2 ^ 32 ≤ s.cfg.memSize

theorem reports_of_isLoad {e : LsqEntry} (h : e.type.isLoad = true) : e.reports = false := by
  simp [LsqEntry.reports, LsqType.isStore, h]

/-- `s` one cycle later, where the cycle did nothing but count the access down (D14). -/
def countedState (s : State) : State := publish { beginCycle s with nxt.lsqCount := s.cur.lsqCount - 1#2 }

/-- `s` one cycle later, where the cycle did nothing but deliver the value of the load `e` and pop it (R280). -/
def deliveredState (e : LsqEntry) (s : State) : State :=
  publish { deliverLoad s.cur.robHead (loadedValue s.mem e.type e.addr) (beginCycle s) with
    nxt.lsqHead := lsqNext s.cfg s.cur.lsqHead
    nxt.lsqInflight := false }

theorem deliveredState_rob (e : LsqEntry) (s : State) (t : Slot) : slotGet (deliveredState e s).cur.rob t
    = if t = s.cur.robHead then { s.cur.robHeadEntry with value := loadedValue s.mem e.type e.addr, ready := true }
      else slotGet s.cur.rob t := robResult_get ..

/-- The load's access starts in the cycle after its dispatch (R280, D16). -/
theorem InQueue.starts {s : State} {e : LsqEntry} (h : InQueue s e) (hload : e.type.isLoad = true)
    (hr : e.ready = true) : step s = .next (queueActed s.cur.rob true memCountdown s) := by
  refine h.step_eq s.cur.rob true memCountdown ?_
  rw [lsqStep_of_lone (s := beginCycle s) h.lone (reports_of_isLoad hload)]
  exact memPipeline_starts (s := beginCycle s) h.notInflight h.lone.notEmpty (by
    rw [beginCycle_cur, h.lone.head, hr])

theorem InQueue.endFollowsAccess {s : State} {e : LsqEntry} (h : InQueue s e) (hload : e.type.isLoad = true) :
    EndFollowsAccess (queueActed s.cur.rob true memCountdown s) e where
  toEndFollowsQueued := h.endFollowsQueued ..
  isLoad := hload
  owner := h.owner
  inflight := rfl
  pending := by
    rw [h.queueActed_head]
    exact h.pending
  allMemory := h.allMemory

section
variable {s : State} {e : LsqEntry} (h : EndFollowsAccess s e)
include h

/-- While the access is under way the LSQ step alone acts. -/
theorem EndFollowsAccess.step_eq {t : State} (ht : memPipeline (beginCycle s) = .next t) :
    step s = .next (publish t) := by
  have h1 := (lsqStep_of_lone (s := beginCycle s) h.lone (reports_of_isLoad h.isLoad)).trans ht
  exact step_of_stationIdle_pending h.running h.stationIdle h.pending h1
    (fetchStep_of_stopped ((lsqStep_frame h1).cur ▸ h.stopped))

theorem EndFollowsAccess.counts (hc : s.cur.lsqCount ≠ 0#2) :
    step s = .next (countedState s) ∧ EndFollowsAccess (countedState s) e :=
  have hidle := h.stationIdle
  have hlone := h.lone
  ⟨h.step_eq (memPipeline_of_counting (s := beginCycle s) h.inflight hc),
    { h with stationIdle := { hidle with }, lone := { hlone with } }⟩

theorem EndFollowsAccess.delivers (hc : s.cur.lsqCount = 0#2) : step s = .next (deliveredState e s) := by
  have hperform := memPipeline_of_inRange (s := beginCycle s) ((performs_iff _).mpr ⟨h.inflight, hc⟩)
    (outOfRange_of_allMemory h.allMemory ..)
  rw [beginCycle_cur, h.lone.head, performAccess_of_isLoad h.isLoad, h.owner] at hperform
  exact h.step_eq hperform

/-- The popped load leaves the queue empty, and END behind a ready entry. -/
theorem EndFollowsAccess.endFollows : EndFollows (deliveredState e s) where
  running := h.running
  idle := ⟨beq_iff_eq.mpr h.lone.tail.symm, rfl, h.stationIdle.rsEmpty, h.stationIdle.noneFinished⟩
  stopped := h.stopped
  second := by
    have hne : s.cur.robHead + 1#5 ≠ s.cur.robHead := by simp
    exact (deliveredState_rob e s _).trans ((if_neg hne).trans h.second)
  last := h.last

theorem EndFollowsAccess.delivered_arch : (deliveredState e s).arch = { s.arch with mem := s.mem } :=
  arch_eq_of_lsqEmpty h.endFollows.idle.lsqEmpty (fun r => (arch_x s r).symm) rfl rfl

end

/-- The load at the head of both rings, of an instruction that writes `rd`, counts down, delivers, commits, and leaves
END to halt the machine (R281). -/
theorem EndFollowsAccess.halts {s : State} {e : LsqEntry} {rd : Reg} {n : Nat} (h : EndFollowsAccess s e)
    (hn : s.cur.lsqCount.toNat = n) (hhead : s.cur.robHeadEntry = regWriteEntry rd false 0#32) :
    HaltsAs (n + 3) s ({ s.arch with mem := s.mem }.write rd (loadedValue s.mem e.type e.addr)) := by
  induction n generalizing s with
  | zero =>
    have hhalts := h.endFollows.halts_of_registerWrite (rd := rd) (v := loadedValue s.mem e.type e.addr) (by
      refine (deliveredState_rob e s _).trans ((if_pos rfl).trans ?_)
      rw [hhead]
      rfl)
    rw [h.delivered_arch] at hhalts
    exact .of_step (h.delivers (BitVec.eq_of_toNat_eq hn)) hhalts
  | succ n ih =>
    obtain ⟨hstep, hnext⟩ := h.counts fun hc => by simp [hc] at hn
    have hcount : (countedState s).cur.lsqCount.toNat = n := by
      show (s.cur.lsqCount - 1#2).toNat = n
      bv_omega
    exact .of_step hstep (ih hnext hcount hhead)

/-! ### The runs of the loads (R281, R406) -/

/-- The run of a load: fetched, its access started, counted down and performed, committed, and END in the seventh
cycle. -/
theorem SoloProgram.halts_of_dispatchLoad {s : State} {i : Instr} {ty : LsqType} {rd rs1 : Reg} {imm : BitVec 12}
    (h : SoloProgram s i) (hload : ty.isLoad = true)
    (hi : exec i (beginCycle s) = dispatchLoad ty rd rs1 (immSext12 imm) (beginCycle s))
    (heff : archEffect s.cfg.auipcMode i s.arch
      = (s.arch.write rd (loadedValue s.arch.mem ty (s.arch.addr rs1 imm))).advance) :
    HaltsAs 7 s (archEffect s.cfg.auipcMode i s.arch) := by
  have hend := h.endNext
  rw [heff, Arch.write_advance] at hend ⊢
  have hstep := h.step_eq (hi.trans (dispatchLoad_of_room (s := beginCycle s) h.quiescent.mayFetch.notFull
    (h.inv.lsqFull_of_lsqEmpty h.quiescent.lsqEmpty)))
  rw [h.quiescent.resolve_eq] at hstep
  have hq := h.inQueue (e := regWriteEntry rd false 0#32)
    (q := loadEntry ty s.cur.robTail (.value (s.arch.read rs1)) (immSext12 imm)) rfl rfl rfl rfl hend
  have hhalts := (hq.endFollowsAccess hload).halts (rd := rd) (n := 2) rfl
    ((hq.queueActed_head ..).trans (queueDispatched_head h.quiescent.robEmpty ..))
  have hmem : s.arch.mem = s.mem := finalMemory_of_lsqEmpty h.quiescent.lsqEmpty
  rw [← Arch.write_setPc, hmem]
  rw [queueActed_arch] at hhalts
  refine .of_step hstep (.of_step (hq.starts hload rfl) ?_)
  exact hhalts

/-- Settles O56: the five are one dispatch, of their type. -/
theorem loadsRun : Obligations.LoadsRun := by
  intro s rd rs1 imm i hi h
  simp only [List.mem_cons, List.not_mem_nil, or_false] at hi
  rcases hi with rfl | rfl | rfl | rfl | rfl <;> exact h.halts_of_dispatchLoad rfl rfl rfl

/-! ### The commit of a store (R277, R318) -/

/-- The store `e` of slot `k` has reported, and its entry is the one before END. -/
structure EndFollowsStore (s : State) (e : LsqEntry) : Prop extends EndFollowsQueued s e where
  isStore : e.type.isStore = true
  uncommitted : e.ready = false
  owner : e.rob = s.cur.robHead
  notInflight : s.cur.lsqInflight = false
  head : s.cur.robHeadEntry = { memWriteEntry s.cur.lsqHead with ready := true }

/-- `s` in the cycle in which the reporting store commits, after its LSQ step (R277). -/
def reportStaged (s : State) : State := { beginCycle s with nxt.rob := robMarkReady s.cur.rob s.cur.robHead }

/-- `s` one cycle later, where the store at the head of both rings has been committed (R318). -/
def committedState (s : State) : State :=
  publish (robPop { reportStaged s with
    nxt.lsq := s.cur.lsq.set s.cur.lsqHead { s.cur.lsqAt s.cur.lsqHead with ready := true } })

theorem commitStep_of_memoryWrite {s : State} (hc : s.cur.commits = true)
    (hk : s.cur.robHeadEntry.kind = .memoryWrite) : commitStep s = commitStore s.cur.robHeadEntry s := by
  obtain ⟨hne, hr⟩ := (commits_iff s.cur).mp hc
  unfold Bank.robHeadEntry at hk hr ⊢
  simp [commitStep, hne, hr, hk]

/-- The commit of the entry of the store in slot `i` authorises it (R318). -/
theorem commitStore_of_uncommitted {s : State} {e : RobEntry} {i : Nat} (hi : e.dest.toNat = i)
    (hu : uncommittedStoreAt s i = true) :
    commitStore e s = .next (robPop { s with nxt.lsq := s.nxt.lsq.set i { s.nxt.lsqAt i with ready := true } }) := by
  subst hi
  simp [commitStore, hu]

/-- A store that has its operands and is not committed reports, and its access waits (R277, R278). -/
theorem lsqStep_reports {s : State} {e : LsqEntry} (h : LoneInQueue s.cfg s.cur e) (hstore : e.type.isStore = true)
    (hr : e.ready = false) (hi : s.cur.lsqInflight = false) :
    lsqStep s = .next { s with nxt.rob := robMarkReady s.nxt.rob e.rob } := by
  have hreports : e.reports = true := by simp [LsqEntry.reports, hstore, hr, h.base, h.value]
  rw [lsqStep, lsqWake_of_lone h, if_pos hreports]
  exact memPipeline_waits (s := { s with nxt.rob := robMarkReady s.nxt.rob e.rob }) hi (.inr (by rw [h.head, hr]))

/-- The END at the head halts the machine, whatever the queue's part of the cycle, unless it writes memory. -/
theorem halts_of_end_at_head {s s1 : State} (hs : s.status = .running) (hstop : s.cur.fetchStopped = true)
    (hne : s.cur.robEmpty = false) (hhead : s.cur.robHeadEntry = endEntry)
    (h1 : lsqStep (beginCycle s) = .next s1) (hmem : s1.mem = s.mem) : HaltsAs 1 s s.arch := by
  have hc : s.cur.commits = true := (commits_iff s.cur).mpr ⟨hne, by rw [hhead]; rfl⟩
  have hcur : s1.cur = s.cur := (lsqStep_frame h1).cur
  have hstep := endCommitHalts s s1 s1 hs hc (by rw [hhead]; rfl) h1 (fetchStep_of_stopped (hcur ▸ hstop))
  rw [hmem] at hstep
  refine .of_step hstep ⟨_, rfl, ?_, rfl⟩
  rw [arch_read]
  rfl

theorem InQueue.reports {s : State} {e : LsqEntry} (h : InQueue s e) (hstore : e.type.isStore = true)
    (hr : e.ready = false) :
    step s = .next (queueActed (robMarkReady s.cur.rob s.cur.robHead) s.cur.lsqInflight s.cur.lsqCount s) := by
  refine h.step_eq _ _ _ ?_
  rw [lsqStep_reports (s := beginCycle s) h.lone hstore hr h.notInflight, h.owner]
  rfl

theorem InQueue.endFollowsStore {s : State} {e : LsqEntry} (h : InQueue s e) (hstore : e.type.isStore = true)
    (hr : e.ready = false) (hhead : s.cur.robHeadEntry = memWriteEntry s.cur.lsqHead) :
    EndFollowsStore (queueActed (robMarkReady s.cur.rob s.cur.robHead) s.cur.lsqInflight s.cur.lsqCount s) e where
  toEndFollowsQueued := h.endFollowsQueued ..
  isStore := hstore
  uncommitted := hr
  owner := h.owner
  notInflight := h.notInflight
  head := by
    rw [h.queueActed_head, robMarkReady_get, if_pos rfl]
    exact congrArg (fun p : RobEntry => { p with ready := true }) hhead

section
variable {s : State} {e : LsqEntry} (h : EndFollowsStore s e)
include h

theorem EndFollowsStore.notEmpty : s.cur.robEmpty = false := by
  simp [Bank.robEmpty, ← h.last, BitVec.add_assoc]

theorem EndFollowsStore.uncommittedStoreAt_head : uncommittedStoreAt s s.cur.lsqHead = true := by
  simp [uncommittedStoreAt, h.lone.occupied_head, h.lone.head, h.isStore, h.uncommitted]

theorem EndFollowsStore.dest_head : s.cur.robHeadEntry.dest.toNat = s.cur.lsqHead := by
  have hin := h.lone.headIn
  obtain ⟨-, -, hsize⟩ := h.lone.valid
  rw [h.head]
  exact (BitVec.toNat_ofNat ..).trans (Nat.mod_eq_of_lt (by omega))

theorem EndFollowsStore.step_eq : step s = .next (committedState s) := by
  have h1 : lsqStep (beginCycle s) = .next (reportStaged s) := by
    rw [lsqStep_reports (s := beginCycle s) h.lone h.isStore h.uncommitted h.notInflight, h.owner]
    rfl
  have hc : s.cur.commits = true := (commits_iff s.cur).mpr ⟨h.notEmpty, by rw [h.head]⟩
  have hk : s.cur.robHeadEntry.kind = .memoryWrite := by rw [h.head]; rfl
  have hcommit := (commitStep_of_memoryWrite (s := reportStaged s) hc hk).trans
    (commitStore_of_uncommitted h.dest_head h.uncommittedStoreAt_head)
  exact (step_of_stationIdle h.running h.stationIdle h1 (fetchStep_of_stopped h.stopped) hcommit).trans
    (congrArg _ (endCycle_of_running h.running))

/-- The committed store stays in the queue. -/
theorem EndFollowsStore.committed_lone :
    LoneInQueue s.cfg (committedState s).cur { e with ready := true } where
  valid := h.lone.valid
  length := (List.length_set ..).trans h.lone.length
  headIn := h.lone.headIn
  tail := h.lone.tail
  head := by
    rw [← h.lone.head]
    exact (getD_set _ _ _ (h.lone.length ▸ h.lone.headIn)).trans (if_pos rfl)
  base := h.lone.base
  value := h.lone.value

theorem EndFollowsStore.committed_arch :
    (committedState s).arch = { s.arch with mem := storeEffect e s.mem } :=
  congrArg (Arch.mk s.arch.x s.arch.pc)
    (finalMemory_of_lone (s := committedState s) (e := { e with ready := true }) h.committed_lone)

/-- The store at the head of both rings commits, and is queued when END halts the machine (R318, R321). -/
theorem EndFollowsStore.halts : HaltsAs 2 s { s.arch with mem := storeEffect e s.mem } := by
  have hlone := h.committed_lone
  have hne : s.cur.robHead + 1#5 ≠ s.cur.robHead := by simp
  have h1 := lsqStep_of_lone (s := beginCycle (committedState s)) hlone (by simp [LsqEntry.reports])
  rw [memPipeline_starts (s := beginCycle (committedState s)) h.notInflight hlone.notEmpty (by
    rw [beginCycle_cur, hlone.head])] at h1
  rw [← h.committed_arch]
  refine .of_step h.step_eq (halts_of_end_at_head h.running h.stopped ?_ ?_ h1 rfl)
  · simp [Bank.robEmpty, committedState, reportStaged, ← h.last]
  · exact (slotGet_slotSet_ne _ _ hne).trans h.second

end

/-! ### The runs of the stores (R321, R406) -/

/-- The run of a store: fetched, reported, committed, and END in the fourth cycle. -/
theorem SoloProgram.halts_of_dispatchStore {s : State} {i : Instr} {ty : LsqType} {rs1 rs2 : Reg} {imm : BitVec 12}
    (h : SoloProgram s i) (hstore : ty.isStore = true)
    (hi : exec i (beginCycle s) = dispatchStore ty rs1 rs2 (immSext12 imm) (beginCycle s))
    (heff : archEffect s.cfg.auipcMode i s.arch
      = { s.arch with mem := memWrite s.arch.mem (s.arch.addr rs1 imm) ty.bytes (s.arch.read rs2) }.advance) :
    HaltsAs 4 s (archEffect s.cfg.auipcMode i s.arch) := by
  have hend := h.endNext
  rw [heff] at hend ⊢
  have hstep := h.step_eq (hi.trans (dispatchStore_of_room (s := beginCycle s) h.quiescent.mayFetch.notFull
    (h.inv.lsqFull_of_lsqEmpty h.quiescent.lsqEmpty)))
  rw [h.quiescent.resolve_eq, h.quiescent.resolve_eq] at hstep
  have hqueue : s.cur.lsqHead = s.cur.lsqTail := beq_iff_eq.mp h.quiescent.lsqEmpty
  have hq := h.inQueue (e := memWriteEntry s.cur.lsqTail)
    (q := storeEntry ty s.cur.robTail (.value (s.arch.read rs1)) (.value (s.arch.read rs2)) (immSext12 imm))
    rfl rfl rfl rfl hend
  have hhalts := (hq.endFollowsStore hstore rfl
    ((queueDispatched_head h.quiescent.robEmpty ..).trans (congrArg memWriteEntry hqueue.symm))).halts
  have hmem : s.arch.mem = s.mem := finalMemory_of_lsqEmpty h.quiescent.lsqEmpty
  rw [queueActed_arch] at hhalts
  rw [hmem]
  exact .of_step hstep (.of_step (hq.reports hstore rfl) hhalts)

/-- A store leaves every byte but those of its access (R63). -/
theorem SoloProgram.readByte_kept {s : State} {i : Instr} {addr v : Word} {n : Nat} (h : SoloProgram s i)
    (heff : archEffect s.cfg.auipcMode i s.arch = { s.arch with mem := memWrite s.arch.mem addr n v }.advance)
    (hbytes : storedBytes i s.arch = (List.range n).map fun j => addr + BitVec.ofNat 32 j) {x : Word}
    (hx : x ∉ storedBytes i s.arch) : readByte (archEffect s.cfg.auipcMode i s.arch).mem x = readByte s.mem x := by
  have hmem : s.arch.mem = s.mem := finalMemory_of_lsqEmpty h.quiescent.lsqEmpty
  rw [hbytes, List.mem_map] at hx
  rw [heff, ← hmem]
  exact readByte_memWrite_outside _ _ _ _ fun j hj he => hx ⟨j, List.mem_range.mpr hj, he.symm⟩

/-- Settles O57: the three are one dispatch, of their type, and the bytes of its access are the stored ones. -/
theorem storesRun : Obligations.StoresRun := by
  intro s rs1 rs2 imm i hi h
  simp only [List.mem_cons, List.not_mem_nil, or_false] at hi
  rcases hi with rfl | rfl | rfl <;>
    exact ⟨h.halts_of_dispatchStore rfl rfl rfl,
      fun _ => h.readByte_kept rfl (by simp [storedBytes, List.range_succ])⟩

end Sys2Proof.Machine
end

section
/-! PROOFS of the family 46_reorder_buffer_commit.md: the commit of each kind of entry (O31, O32, O33), the head's one
advance per commit (O36) and the registers' only way to change (O37), both read off the outcomes of the commit step
(`CommitOutcome`), the drained machine at the commit of END (O39), the source of every entry's readiness
(`Bank.Delivers`, O52), and the state after a misprediction, an `Advance` that is `Flushed` (O35). -/

namespace Sys2Proof.Machine

/-! ### What a commit makes of the staged state (R315 to R322) -/

theorem commitStep_of_branch {s : State} (hc : s.cur.commits = true) (hk : s.cur.robHeadEntry.kind = .branch) :
    commitStep s = commitBranch s.cur.robHeadEntry s := by
  obtain ⟨hne, hr⟩ := (commits_iff s.cur).mp hc
  unfold Bank.robHeadEntry at hk hr ⊢
  simp [commitStep, hne, hr, hk]

/-- The state a commit step answers: as it was where no head commits, else by the kind of the head (R315). -/
inductive CommitOutcome (s : State) : State → Prop
  | idle (hc : s.cur.commits = false) : CommitOutcome s s
  | register (hc : s.cur.commits = true) (hk : s.cur.robHeadEntry.kind = .registerWrite) :
    CommitOutcome s
      (robPop (regWrite (s.cur.robHeadEntry.dest.setWidth 5) s.cur.robHeadEntry.value s.cur.robHead s))
  | store {i : Nat} (hc : s.cur.commits = true) (hk : s.cur.robHeadEntry.kind = .memoryWrite)
    (hi : s.cur.robHeadEntry.dest.toNat = i) (hu : uncommittedStoreAt s i = true) :
    CommitOutcome s (robPop { s with nxt.lsq := s.nxt.lsq.set i { s.nxt.lsqAt i with ready := true } })
  | branch {taken : Bool} (hc : s.cur.commits = true) (hk : s.cur.robHeadEntry.kind = .branch)
    (ht : (s.cur.robHeadEntry.value != 0#32) = taken) (hp : taken = s.cur.robHeadEntry.predicted) :
    CommitOutcome s (robPop (predUpdate s.cur.robHeadEntry.baddr taken s))
  | flush {taken : Bool} (hc : s.cur.commits = true) (hk : s.cur.robHeadEntry.kind = .branch)
    (ht : (s.cur.robHeadEntry.value != 0#32) = taken) (hp : taken ≠ s.cur.robHeadEntry.predicted) :
    CommitOutcome s (flushMispredicted s.cur.robHeadEntry (predUpdate s.cur.robHeadEntry.baddr taken s))
  | halt (hc : s.cur.commits = true) (hk : s.cur.robHeadEntry.kind = .endProg) :
    CommitOutcome s { s with status := .halted ((s.cur.regRead a0).setWidth 8) }

theorem commits_eq_false {b : Bank} (h : b.robEmpty = true ∨ b.robHeadEntry.ready = false) : b.commits = false := by
  rcases h with h | h <;> simp [Bank.commits, h]

theorem commitStep_outcome {s t : State} (h : commitStep s = .next t) : CommitOutcome s t := by
  rcases commitStep_cases h with ⟨hidle, rfl⟩ | ⟨hne, hr, hcase⟩
  · exact .idle (commits_eq_false hidle)
  · have hc : s.cur.commits = true := (commits_iff s.cur).mpr ⟨hne, hr⟩
    rcases hcase with ⟨hk, h⟩ | ⟨hk, h⟩ | ⟨hk, h⟩ | ⟨hk, h⟩
    · cases h
      exact .register hc hk
    · obtain ⟨hu, rfl⟩ := commitStore_eq_next h
      exact .store hc hk rfl hu
    · by_cases hp : (s.cur.robHeadEntry.value != 0#32) = s.cur.robHeadEntry.predicted
      · cases (commitBranch_right s hp).symm.trans h
        exact .branch hc hk rfl hp
      · cases (commitBranch_wrong s hp).symm.trans h
        exact .flush hc hk rfl hp
    · cases h
      exact .halt hc hk

theorem flushBank_robHead (c : Config) (h : Slot) (a : Word) (b : Bank) : (flushBank c h a b).robHead = h + 1#5 := by
  rw [flushBank, truncateLsq_eq]

/-- The flush writes no register value (R346). -/
theorem flushMispredicted_value (e : RobEntry) (s : State) (r : Reg) :
    (slotGet (flushMispredicted e s).nxt.reg r).value = (slotGet s.nxt.reg r).value := by
  rw [flushMispredicted_nxt, (flushBank_flushed ..).clean]

theorem predUpdate_reg (a : Word) (o : Bool) (s : State) : (predUpdate a o s).nxt.reg = s.nxt.reg := by
  rw [predUpdate_nxt]

/-! ### The commit of a RegisterWrite entry (R317) -/

/-- A rename of this cycle, as the next copy shows it (R176, R344). -/
theorem renamedThisCycle_eq_true {s : State} {i : Reg} :
    s.renamedThisCycle i = true ↔ s.nxt.robTail ≠ s.cur.robTail
      ∧ (slotGet s.nxt.rob s.cur.robTail).kind = .registerWrite
      ∧ (slotGet s.nxt.rob s.cur.robTail).dest = i.setWidth 32 := by
  simp [State.renamedThisCycle, and_assoc]

theorem regWrite_eq (i : Reg) (v : Word) (h : Slot) (s : State) :
    regWrite i v h s = { s with nxt.reg := (regWrite i v h s).nxt.reg } := by
  unfold regWrite
  split <;> rfl

theorem regWrite_ne {i j : Reg} (hj : j ≠ i) (v : Word) (h : Slot) (s : State) :
    slotGet (regWrite i v h s).nxt.reg j = slotGet s.nxt.reg j := by
  unfold regWrite
  split
  · rfl
  · exact slotGet_slotSet_ne _ _ hj

/-- Settles O31: the commit pops and writes one register, whose `dirty` bit `regWrite_dirty_dep` describes. -/
theorem registerWriteCommit : Obligations.RegisterWriteCommit := by
  intro s hc hk e d renamed
  have hren : s.renamedThisCycle d = true ↔ renamed := renamedThisCycle_eq_true
  refine ⟨robPop (regWrite d e.value s.cur.robHead s), commitStep_of_registerWrite hc hk, ?_, fun r hr => ?_,
    fun hd => ?_⟩
  · rw [regWrite_eq]
    rfl
  · rw [robPop_nxt]
    by_cases hrd : r = d
    · obtain rfl := hr.resolve_left (not_not_intro hrd)
      exact regWrite_zero ..
    · exact regWrite_ne hrd ..
  · obtain ⟨hdep, hdirty⟩ := regWrite_dirty_dep d e.value s.cur.robHead s hd
    refine ⟨(regWrite_value ..).trans (if_pos ⟨hd, rfl⟩), hdep, fun hh hn => ?_, fun hkeep => ?_⟩
    · refine Bool.eq_false_iff.mpr fun ht => (hdirty.mp ht).2 ⟨rfl, hh, ?_⟩
      exact Bool.eq_false_iff.mpr (mt hren.mp hn)
    · refine Bool.eq_iff_iff.mpr (hdirty.trans (and_iff_left ?_))
      rintro ⟨-, hh, hn⟩
      rcases hkeep with hne | hr
      · exact hne hh
      · rw [hren.mpr hr] at hn
        cases hn

/-! ### The commit of a MemoryWrite entry (R318) -/

theorem uncommittedStoreAt_iff {s : State} {i : Nat} :
    uncommittedStoreAt s i = true ↔ s.cur.lsqOccupied s.cfg i = true ∧ (s.cur.lsqAt i).type.isStore = true
      ∧ (s.cur.lsqAt i).ready = false := by
  simp [uncommittedStoreAt, and_assoc]

/-- Settles O32. -/
theorem storeCommit : Obligations.StoreCommit := by
  intro s hc hk
  rw [commitStep_of_memoryWrite hc hk]
  exact ⟨fun hu => commitStore_of_uncommitted rfl (uncommittedStoreAt_iff.mpr hu),
    fun hu => if_neg (mt uncommittedStoreAt_iff.mp hu)⟩

/-! ### The commit of a Branch entry (R319) -/

/-- Settles O33: both outcomes leave memory and register values as the training does, which writes neither. -/
theorem branchCommit : Obligations.BranchCommit := by
  intro s hc hk e actual trained
  have hcommit : commitStep s = commitBranch e s := commitStep_of_branch hc hk
  refine ⟨fun hp => ?_, fun hp => hcommit.trans (commitBranch_wrong s hp), ?_⟩
  · rw [hcommit, commitBranch_right s hp, robPop, predUpdate_cur]
  · by_cases hp : actual = e.predicted
    · refine ⟨_, hcommit.trans (commitBranch_right s hp), fun a => ?_, fun r => ?_⟩
      · rw [robPop_mem, predUpdate_mem]
      · rw [robPop_nxt, predUpdate_reg]
    · refine ⟨_, hcommit.trans (commitBranch_wrong s hp), fun a => ?_, fun r => ?_⟩
      · rw [flushMispredicted_mem, predUpdate_mem]
      · rw [flushMispredicted_value, predUpdate_reg]

/-! ### The commit within its cycle -/

/-- `u` is what the LSQ, fetch and RS steps of a cycle from `s` leave to the commit step (R130). -/
def ComputedBeforeCommit (s u : State) : Prop :=
  ∃ s1 s2, lsqStep (beginCycle s) = .next s1 ∧ fetchStep s1 = .next s2 ∧ u = rsStep s2

theorem step_commits {s t : State} (h : step s = .next t) :
    s.status = .running ∧ ∃ u v, ComputedBeforeCommit s u ∧ commitStep u = .next v ∧ t = endCycle v := by
  obtain ⟨hs, s1, s2, s3, h1, h2, h3, rfl⟩ := step_cases h
  exact ⟨hs, rsStep s2, s3, ⟨s1, s2, h1, h2, rfl⟩, h3, rfl⟩

section
variable {s u : State} (h : ComputedBeforeCommit s u)
include h

theorem ComputedBeforeCommit.cur : u.cur = s.cur := by
  obtain ⟨s1, s2, h1, h2, rfl⟩ := h
  obtain ⟨-, hcur, -⟩ := step_units_cur h1 h2
  exact hcur

theorem ComputedBeforeCommit.cfg : u.cfg = s.cfg := by
  obtain ⟨s1, s2, h1, h2, rfl⟩ := h
  obtain ⟨-, -, -, hcfg, -⟩ := step_units_cur h1 h2
  exact hcfg

theorem ComputedBeforeCommit.status : u.status = s.status := by
  obtain ⟨s1, s2, h1, h2, rfl⟩ := h
  exact (fetchStep_frame h2).status.trans (lsqStep_frame h1).status

/-- No step before the commit step moves the head of the buffer (R133). -/
theorem ComputedBeforeCommit.robHead : u.nxt.robHead = s.cur.robHead := by
  obtain ⟨s1, s2, h1, h2, rfl⟩ := h
  exact (fetchStep_frame h2).robHead.trans (congrArg (·.robHead) (lsqStep_frame h1).nxt)

/-- No step before the commit step writes a register value (R133). -/
theorem ComputedBeforeCommit.value (r : Reg) : (slotGet u.nxt.reg r).value = (slotGet s.cur.reg r).value := by
  obtain ⟨s1, s2, h1, h2, rfl⟩ := h
  exact ((fetchStep_frame h2).values r).trans (congrArg (fun n => (slotGet n.reg r).value) (lsqStep_frame h1).nxt)

theorem ComputedBeforeCommit.advance (hr : RatOk s.cur) :
    ∃ st, StagingOk s.cfg s.cur st ∧ Advance s.cfg s.cur st false u.nxt := by
  obtain ⟨s1, s2, h1, h2, rfl⟩ := h
  exact computed_advance hr h1 h2

end

/-- The pop and the flush both leave the head one past the committed entry (R316, D18). -/
theorem commitStep_robHead {s t : State} (h : commitStep s = .next t) (hrun : t.status = .running) :
    t.nxt.robHead = if s.cur.commits then s.cur.robHead + 1#5 else s.nxt.robHead := by
  cases commitStep_outcome h with
  | idle hc => simp [hc]
  | register hc => simp [hc]
  | store hc => simp [hc]
  | branch hc => simp [hc]
  | flush hc => simp [hc, flushBank_robHead]
  | halt => cases hrun

/-- Settles O36. -/
theorem headAdvancesByOnePerCommit : Obligations.HeadAdvancesByOnePerCommit := by
  intro s t h hrun
  obtain ⟨-, u, v, hu, hv, rfl⟩ := step_commits h
  rw [endCycle_status] at hrun
  have hhead := commitStep_robHead hv hrun
  rw [hu.cur, hu.robHead] at hhead
  rw [endCycle_of_running hrun]
  exact hhead

/-- The head's commit writes the value of register `r` (R317, D27). -/
abbrev Bank.writesRegister (b : Bank) (r : Reg) : Prop :=
  b.commits = true ∧ b.robHeadEntry.kind = .registerWrite ∧ b.robHeadEntry.dest.setWidth 5 = r ∧ r ≠ 0#5

theorem not_writesRegister_of_kind {b : Bank} (hk : b.robHeadEntry.kind ≠ .registerWrite) (r : Reg) :
    ¬b.writesRegister r := fun ⟨_, hw, _⟩ => hk hw

theorem not_writesRegister_of_idle {b : Bank} (hc : b.commits = false) (r : Reg) : ¬b.writesRegister r :=
  fun ⟨hw, _⟩ => absurd (hc.symm.trans hw) (by decide)

/-- Of the outcomes of a commit only that of a RegisterWrite entry writes a register value (R317). -/
theorem commitStep_value {s t : State} (h : commitStep s = .next t) (r : Reg) :
    (slotGet t.nxt.reg r).value
      = if s.cur.writesRegister r then s.cur.robHeadEntry.value else (slotGet s.nxt.reg r).value := by
  cases commitStep_outcome h with
  | idle hc => rw [if_neg (not_writesRegister_of_idle hc r)]
  | register hc hk =>
    rw [robPop_nxt, regWrite_value]
    refine if_congr ?_ rfl rfl
    constructor
    · rintro ⟨hne, rfl⟩
      exact ⟨hc, hk, rfl, hne⟩
    · rintro ⟨-, -, rfl, hne⟩
      exact ⟨hne, rfl⟩
  | store hc hk => rw [if_neg (not_writesRegister_of_kind (by simp [hk]) r), robPop_nxt]
  | branch hc hk => rw [if_neg (not_writesRegister_of_kind (by simp [hk]) r), robPop_nxt, predUpdate_reg]
  | flush hc hk => rw [if_neg (not_writesRegister_of_kind (by simp [hk]) r), flushMispredicted_value, predUpdate_reg]
  | halt hc hk => rw [if_neg (not_writesRegister_of_kind (by simp [hk]) r)]

/-- A cycle ends its run only with the commit of END. -/
theorem commitStep_halts {s t : State} (h : commitStep s = .next t) (hs : s.status = .running)
    (ht : t.status ≠ .running) : s.cur.robHeadEntry.kind = .endProg := by
  cases commitStep_outcome h with
  | idle => exact absurd hs ht
  | register => exact absurd ((regWrite_status ..).trans hs) ht
  | store => exact absurd hs ht
  | branch => exact absurd ((predUpdate_status ..).trans hs) ht
  | flush => exact absurd ((predUpdate_status ..).trans hs) ht
  | halt _ hk => exact hk

/-- Settles O37: a published cycle shows what its commit step staged; a halt keeps the registers and commits END. -/
theorem registersChangeOnlyByCommit : Obligations.RegistersChangeOnlyByCommit := by
  intro s t h r
  obtain ⟨hs, u, v, hu, hv, rfl⟩ := step_commits h
  by_cases hrun : v.status = .running
  · have hvalue := commitStep_value hv r
    rw [hu.cur, hu.value] at hvalue
    rw [endCycle_of_running hrun]
    exact hvalue
  · have hk := commitStep_halts hv (hu.status.trans hs) hrun
    obtain ⟨-, hcur, -⟩ := commitStep_keeps hv
    rw [hu.cur] at hk
    rw [endCycle_of_not_running hrun, hcur, hu.cur]
    exact (if_neg (not_writesRegister_of_kind (by simp [hk]) r)).symm

/-! ### The machine at the commit of END (R321) -/

section
variable {c : Config} {b : Bank} (hI : BankInv c b) (hc : b.commits = true) (hk : b.robHeadEntry.kind = .endProg)
include hI hc hk

/-- END is the youngest entry, so at the head it is the only one. -/
theorem robTail_of_end_at_head : b.robTail = b.robHead + 1#5 :=
  (hI.fetch.endIsYoungest b.robHead (robHead_occupied ((commits_iff b).mp hc).1) hk).2.symm

theorem kind_of_end_at_head {i : Slot} (hi : b.robOccupied i = true) : (slotGet b.rob i).kind = .endProg := by
  have htail := robTail_of_end_at_head hI hc hk
  have hage := (robOccupied_iff_age b i).mp hi
  have hhead : i = b.robHead := by
    unfold Bank.robAge at hage
    rw [htail] at hage
    bv_omega
  rw [hhead]
  exact hk

theorem rs_empty_of_end_at_head {e : RsEntry} (he : e ∈ b.rs) : e.empty = true := by
  by_contra hlive
  obtain ⟨ho, -, hkind⟩ := hI.station.slotPending e he (by simpa using hlive)
  rw [kind_of_end_at_head hI hc hk ho] at hkind
  split at hkind <;> cases hkind

theorem fu_idle_of_end_at_head {f : Fu} (hf : f ∈ b.fu.units) : f.busy = false := by
  obtain ⟨cl, u, rfl⟩ := mem_units.mp hf
  by_contra hbusy
  obtain ⟨e, he, hlive, -⟩ := hI.units.unitHasEntry cl u (by simpa using hbusy)
  exact absurd (hlive.symm.trans (rs_empty_of_end_at_head hI hc hk he)) (by decide)

theorem clean_of_end_at_head (r : Reg) : (slotGet b.reg r).dirty = false := by
  by_contra hdirty
  obtain ⟨ho, hkind, -⟩ := hI.rat.dirtyHasProducer r (by simpa using hdirty)
  cases (kind_of_end_at_head hI hc hk ho).symm.trans hkind

/-- A load or an uncommitted store would have an entry of another kind in the buffer. -/
theorem committedStore_of_end_at_head {i : Nat} (hi : i < c.lsqSize) (ho : b.lsqOccupied c i = true) :
    (b.lsqAt i).committedStore = true := by
  by_contra hu
  have hslot := hI.queue.slots i hi ho
  rcases not_committedStore_iff.mp (by simpa using hu) with hload | ⟨hstore, hready⟩
  · obtain ⟨hocc, -, hkind, -⟩ := hslot.load hload
    cases (kind_of_end_at_head hI hc hk hocc).symm.trans hkind
  · obtain ⟨hocc, hkind, -⟩ := hslot.pendingStore hstore hready
    cases (kind_of_end_at_head hI hc hk hocc).symm.trans hkind

end

/-- Settles O39: whatever is in flight names an entry of the buffer of another kind than END (`kind_of_end_at_head`). -/
theorem haltFindsTheMachineDrained : Obligations.HaltFindsTheMachineDrained := by
  intro s hI hc hk
  have hb := hI.bank
  refine ⟨?_, fun _ he => rs_empty_of_end_at_head hb hc hk he, fun _ hf => fu_idle_of_end_at_head hb hc hk hf,
    clean_of_end_at_head hb hc hk, fun i hi ho => ?_⟩
  · rw [Bank.robCount, robTail_of_end_at_head hb hc hk]
    bv_omega
  · have hcom := committedStore_of_end_at_head hb hc hk hi ho
    exact ⟨hcom, (hI.queue.slots i hi ho).committed hcom⟩

/-! ### How an entry becomes ready (R313) -/

/-- `n` is the entry `e`, or `e` made ready with a value of `w`. -/
def Receives (w : Word → Prop) (e n : RobEntry) : Prop := n = e ∨ ∃ v, w v ∧ n = { e with value := v, ready := true }

theorem Receives.frame {w : Word → Prop} {e n : RobEntry} (h : Receives w e n) :
    n.kind = e.kind ∧ n.dest = e.dest ∧ n.baddr = e.baddr ∧ n.predicted = e.predicted := by
  rcases h with rfl | ⟨v, -, rfl⟩ <;> exact ⟨rfl, rfl, rfl, rfl⟩

/-- A result written into one slot; the last one stands (R196, R280). -/
theorem Receives.of_robResult {w : Word → Prop} {e : RobEntry} {r : Vector RobEntry 32} {i t : Slot} {v : Word}
    (h : Receives w e (slotGet r i)) (hw : t = i → w v) : Receives w e (slotGet (robResult r t v) i) := by
  rw [robResult, slotGet_slotSet]
  split
  · next hi =>
    subst hi
    refine .inr ⟨v, hw rfl, ?_⟩
    rcases h with h | ⟨v', -, h⟩ <;> rw [h]
  · exact h

/-- The finished units write their results (R196). -/
theorem Receives.of_harvestRob {w : Word → Prop} {e : RobEntry} {r : Vector RobEntry 32} {i : Slot} {fu : FuArray}
    (h : Receives w e (slotGet r i)) (hw : ∀ f ∈ fu.units, f.finished = true → f.index = i → w f.result) :
    Receives w e (slotGet (harvestRob fu r) i) := by
  refine List.foldlRecOn (motive := fun r' => Receives w e (slotGet r' i)) _ _ h fun r' h' f hf => ?_
  split
  · next hfin => exact h'.of_robResult (hw f hf hfin)
  · exact h'

/-- A report makes its slot ready and leaves the value (R277). -/
theorem reportStores_slot (c : Config) (b : Bank) (r : Vector RobEntry 32) (i : Slot) :
    slotGet (reportStores c b r) i = slotGet r i
      ∨ b.storeFinishes c i ∧ slotGet (reportStores c b r) i = { slotGet r i with ready := true } := by
  refine List.foldlRecOn
    (motive := fun r' => slotGet r' i = slotGet r i
      ∨ b.storeFinishes c i ∧ slotGet r' i = { slotGet r i with ready := true }) _ _ (.inl rfl) fun r' h j hj => ?_
  dsimp only
  split
  · next hrep =>
    rw [robMarkReady, slotGet_slotSet]
    split
    · next hi =>
      subst hi
      refine .inr ⟨⟨j, List.mem_range.mp hj, hrep, rfl⟩, ?_⟩
      rcases h with h | ⟨-, h⟩ <;> rw [h]
    · exact h
  · exact h

/-- What the buffer holds after the LSQ step: the reports, and the value of a load whose access is performed (R277,
R280). -/
theorem lsqStep_rob {s t : State} (h : lsqStep s = .next t) :
    t.nxt.rob = if s.cur.performs = true ∧ (s.cur.lsqAt s.cur.lsqHead).type.isLoad = true
      then robResult (lsqWake s).nxt.rob (s.cur.lsqAt s.cur.lsqHead).rob
        (loadedValue s.mem (s.cur.lsqAt s.cur.lsqHead).type (s.cur.lsqAt s.cur.lsqHead).addr)
      else (lsqWake s).nxt.rob := by
  have hperf := performs_iff s.cur
  rcases memPipeline_cases h with ⟨-, hc, rfl⟩ | ⟨hi, hc, -, rfl⟩ | ⟨hi, -, -, rfl⟩ | ⟨hi, -, rfl⟩
  · rw [if_neg fun hp => hc (hperf.mp hp.1).2]
  · have hp : s.cur.performs = true := hperf.mpr ⟨hi, hc⟩
    cases hl : (s.cur.lsqAt s.cur.lsqHead).type.isLoad with
    | true => simp [hp, performAccess_of_isLoad hl]
    | false => simp [performAccess_of_isStore (LsqType.isStore_iff.mpr hl)]
  · rw [if_neg fun hp => Bool.false_ne_true (hi.symm.trans (hperf.mp hp.1).1)]
  · rw [if_neg fun hp => Bool.false_ne_true (hi.symm.trans (hperf.mp hp.1).1)]

/-- The values that a cycle from the bank `b` with memory `m` may give the entry in slot `i`, by their source: a
store's report leaves the one it has, a load delivers what it reads, a finished unit its result. -/
inductive Bank.Delivers (c : Config) (b : Bank) (m : Memory) (i : Slot) : Word → Prop
  | store (h : b.storeFinishes c i) : Delivers c b m i (slotGet b.rob i).value
  | load (h : b.loadFinishes i) :
    Delivers c b m i (loadedValue m (b.lsqAt b.lsqHead).type (b.lsqAt b.lsqHead).addr)
  | unit (cl : FuClass) (u : FuInst) (hf : (b.fu.unit cl u).finished = true) (hi : (b.fu.unit cl u).index = i) :
    Delivers c b m i (b.fu.unit cl u).result

theorem lsqStep_receives {s t : State} (h : lsqStep (beginCycle s) = .next t) (i : Slot) :
    Receives (s.cur.Delivers s.cfg s.mem i) (slotGet s.cur.rob i) (slotGet t.nxt.rob i) := by
  have hreport : Receives (s.cur.Delivers s.cfg s.mem i) (slotGet s.cur.rob i)
      (slotGet (lsqWake (beginCycle s)).nxt.rob i) := by
    rcases reportStores_slot s.cfg s.cur s.cur.rob i with hr | ⟨hs, hr⟩
    · exact .inl hr
    · exact .inr ⟨_, .store hs, hr⟩
  rw [lsqStep_rob h]
  split
  · next hp => exact hreport.of_robResult fun hi => .load ⟨hp.1, hp.2, hi⟩
  · exact hreport

/-- An occupied slot over a published cycle; the entry staged by the fetch step stands at the tail, outside them. -/
theorem step_receives {s t : State} (hr : RatOk s.cur) (h : step s = .next t) (hrun : t.status = .running) {i : Slot}
    (hi : s.cur.robOccupied i = true) :
    Receives (s.cur.Delivers s.cfg s.mem i) (slotGet s.cur.rob i) (slotGet t.cur.rob i) := by
  obtain ⟨-, s1, s2, s3, h1, h2, h3, rfl⟩ := step_cases h
  obtain ⟨hcur1, hcur2, -⟩ := step_units_cur h1 h2
  obtain ⟨st, -, hstaged⟩ := fetchStep_staged (hcur1 ▸ hr) h2
  have hne : i ≠ s1.cur.robTail := by
    rintro rfl
    exact not_robOccupied_tail s.cur (hcur1 ▸ hi)
  have hfetch : slotGet s2.nxt.rob i = slotGet s1.nxt.rob i := by
    rw [hstaged.rob, Staging.rob]
    split
    · exact slotGet_slotSet_ne _ _ hne
    · rfl
  rw [endCycle_status] at hrun
  have hrob : (endCycle s3).cur.rob = harvestRob s.cur.fu s2.nxt.rob := by
    rw [endCycle_of_running hrun, ← hcur2]
    exact commitStep_rob h3
  rw [hrob]
  refine Receives.of_harvestRob (hfetch ▸ lsqStep_receives h1 i) fun f hf hfin hidx => ?_
  obtain ⟨cl, u, rfl⟩ := mem_units.mp hf
  exact .unit cl u hfin hidx

section
variable {c : Config} {b : Bank} (hI : BankInv c b)
include hI

/-- A unit's slot is a RegisterWrite or a Branch that is not ready. -/
theorem unitFinishes_pending {i : Slot} (h : b.unitFinishes i) :
    (slotGet b.rob i).ready = false
      ∧ ((slotGet b.rob i).kind = .registerWrite ∨ (slotGet b.rob i).kind = .branch) := by
  obtain ⟨k, hk, he, -, rfl⟩ := unitFinishes_entry hI h
  obtain ⟨-, hready, hkind⟩ := hI.station.slotPending _ (rsAt_mem hk) he
  refine ⟨hready, ?_⟩
  rw [hkind]
  split
  · exact .inr rfl
  · exact .inl rfl

theorem loadFinishes_pending {i : Slot} (h : b.loadFinishes i) : (slotGet b.rob i).ready = false := by
  obtain ⟨hp, hl, rfl⟩ := h
  obtain ⟨ho, -⟩ := performs_head hI hp
  obtain ⟨-, hready, -⟩ := (hI.queue.slots _ hI.shaped.lsqHeadIn ho).load hl
  exact hready

/-- A ready entry receives no other value: loads and units deliver to pending slots only. -/
theorem Bank.Delivers.value_of_ready {m : Memory} {i : Slot} {v : Word} (h : b.Delivers c m i v)
    (hr : (slotGet b.rob i).ready = true) : v = (slotGet b.rob i).value := by
  cases h with
  | store => rfl
  | load h => exact absurd (hr.symm.trans (loadFinishes_pending hI h)) (by decide)
  | unit cl u hf hi =>
    obtain ⟨hpending, -⟩ := unitFinishes_pending hI ⟨_, mem_units.mpr ⟨cl, u, rfl⟩, hf, hi⟩
    exact absurd (hr.symm.trans hpending) (by decide)

end

/-- Settles O52, by the source of the value the entry receives (`step_receives`). -/
theorem howAnEntryBecomesReady : Obligations.HowAnEntryBecomesReady := by
  intro s t k hI h hrun hocc _ e n
  have hb := hI.bank
  have hn : Receives (s.cur.Delivers s.cfg s.mem k) e n := step_receives hI.rat h hrun hocc
  obtain ⟨hkind, hdest, hbaddr, hpred⟩ := hn.frame
  refine ⟨hkind, hdest, hbaddr, hpred, fun he => ?_, fun he hready => ?_⟩
  · rcases hn with hn | ⟨v, hv, hn⟩
    · rw [hn]
      exact ⟨he, rfl⟩
    · rw [hn]
      exact ⟨rfl, hv.value_of_ready hb he⟩
  · rcases hn with hn | ⟨v, hv, hn⟩
    · rw [hn, he] at hready
      cases hready
    · rw [hn]
      cases hv with
      | unit cl u hf hi =>
        obtain ⟨-, hk⟩ := unitFinishes_pending hb ⟨_, mem_units.mpr ⟨cl, u, rfl⟩, hf, hi⟩
        exact .inl ⟨cl, u, hf, hi, rfl, hk⟩
      | load hload =>
        obtain ⟨hp, -, hl, hrob, -, hk⟩ := loadFinishes_load hb hload
        exact .inr (.inl ⟨hp, hl, hrob, hk, rfl⟩)
      | store hstore =>
        obtain ⟨j, hj, ho, hrob, hbase, hval, -, hk, -⟩ := storeFinishes_store hb hstore
        exact .inr (.inr ⟨hk, j, hj, ho, hrob, hbase, hval⟩)

/-! ### The state after a misprediction (R322, R283) -/

/-- With the walk's fuel at least the rest of the queue, the truncation stops at the tail or before an entry that is no
committed store (R283). -/
theorem truncateFrom_stops {c : Config} {b : Bank} (hs : Shaped c b) (fuel : Nat) {i : Nat} (hi : i < c.lsqSize)
    (hage : b.lsqAge c i ≤ b.lsqAge c b.lsqTail) (hfuel : b.lsqAge c b.lsqTail ≤ b.lsqAge c i + fuel) :
    truncateFrom c b fuel i = b.lsqTail ∨ (b.lsqAt (truncateFrom c b fuel i)).committedStore = false := by
  have hinj {j : Nat} (hj : j < c.lsqSize) := lsqAge_inj hs.lsqHeadIn hj hs.lsqTailIn
  induction fuel generalizing i with
  | zero => exact .inl ((hinj hi).mp (by omega))
  | succ fuel ih =>
    unfold truncateFrom
    split
    · next htail => exact .inl htail
    · next hne =>
      split
      · have hlt : b.lsqAge c i ≠ b.lsqAge c b.lsqTail := fun h => hne ((hinj hi).mp h)
        have hlast := lsqAge_lt b hs.lsqTailIn
        have hnext := lsqAge_next hs.lsqHeadIn hi (by omega)
        exact ih (lsqNext_lt hi) (by omega) (by omega)
      · next hu => exact .inr (by simpa using hu)

/-- A flush keeps every committed store: they stand first in the queue, and the truncation walks over them (R283). -/
theorem Flushed.keeps_committed {c : Config} {b n : Bank} (hI : BankInv c b) (hF : Flushed c b n) {i : Nat}
    (hi : i < c.lsqSize) (ho : b.lsqOccupied c i = true) (hc : (b.lsqAt i).committedStore = true) :
    n.lsqOccupied c i = true := by
  have hs := hI.shaped
  have hlt := (lsqOccupied_iff_age hi).mp ho
  obtain ⟨htail, hle, -⟩ := hF.truncated hI
  have hstop : n.lsqTail = b.lsqTail ∨ (b.lsqAt n.lsqTail).committedStore = false := by
    have hhead := lsqAge_head hs.lsqHeadIn
    have hlast := lsqAge_lt b hs.lsqTailIn
    rw [hF.lsqTail]
    exact truncateFrom_stops hs _ hs.lsqHeadIn (by omega) (by omega)
  have hbefore : b.lsqAge c i < b.lsqAge c n.lsqTail := by
    rcases hstop with hstop | hstop
    · rwa [hstop]
    · by_contra hge
      have hne : b.lsqAge c n.lsqTail ≠ b.lsqAge c i := fun he => by
        rw [(lsqAge_inj hs.lsqHeadIn htail hi).mp he, hc] at hstop
        cases hstop
      have hcom := hI.queue.committedPrefix n.lsqTail htail i hi ((lsqOccupied_iff_age htail).mpr (by omega)) ho
        (by omega) hc
      exact absurd (hstop.symm.trans hcom) (by decide)
  refine (lsqOccupied_iff_age hi).mpr ?_
  unfold Bank.lsqAge at hbefore ⊢
  rwa [hF.lsqHead]

/-- The queue after a flush holds the committed stores it held, and nothing else (R283). -/
theorem Flushed.lsqOccupied_iff {c : Config} {b n : Bank} (hI : BankInv c b) (hF : Flushed c b n) {i : Nat}
    (hi : i < c.lsqSize) :
    n.lsqOccupied c i = true ↔ b.lsqOccupied c i = true ∧ (b.lsqAt i).committedStore = true :=
  ⟨hF.committed hI hi, fun ⟨ho, hc⟩ => hF.keeps_committed hI hi ho hc⟩

section
variable {c : Config} {b n : Bank} {st : Staging} (hI : BankInv c b) (hst : StagingOk c b st)
  (hA : Advance c b st false n) {i : Nat} (hi : i < c.lsqSize)
include hI hst hA hi

/-- A cycle that commits no store leaves the committed stores in the queue but the one it performs (R280). -/
theorem Advance.committedStore_iff :
    n.lsqOccupied c i = true ∧ (n.lsqAt i).committedStore = true ↔
      b.lsqOccupied c i = true ∧ (b.lsqAt i).committedStore = true ∧ ¬(i = b.lsqHead ∧ b.performs = true) := by
  constructor
  · rintro ⟨ho, hc⟩
    rcases hA.lsqOccupied_cases hI hst hi ho with ⟨-, e, hq⟩ | ⟨hb, hnp, hp⟩
    · exact absurd ((hst.queue e _ hq).uncommitted.symm.trans hc) (by decide)
    · exact ⟨hb, (hp.committed hc).resolve_right (by simp), fun ⟨hh, hperf⟩ => hnp ⟨hperf, hh⟩⟩
  · rintro ⟨hb, hc, hnp⟩
    obtain ⟨ho, hp⟩ := hA.lsq_stays hI hst hi hb fun hperf hh => hnp ⟨hh, hperf⟩
    exact ⟨ho, hp.committed_mono hc⟩

omit hst in
/-- A committed store waits for no operand, so no wake-up changes it (R276, R278). -/
theorem Advance.lsqAt_of_committedStore (hb : b.lsqOccupied c i = true) (hc : (b.lsqAt i).committedStore = true) :
    n.lsqAt i = b.lsqAt i := by
  obtain ⟨hbase, hval⟩ := (hI.queue.slots i hi hb).committed hc
  have hwoken : b.woken c i = b.lsqAt i := by simp [Bank.woken, hb, wakeLsq, hbase, hval]
  have hne : i ≠ b.lsqTail := fun h => not_lsqOccupied_tail c b (h ▸ hb)
  have hstaged : st.lsqAt c b i = b.lsqAt i := by
    cases st with
    | queue e q => exact (if_neg hne).trans hwoken
    | nothing | alone e | station e k r => exact hwoken
  rw [hA.lsqAt i (hI.shaped.lsqLength.symm ▸ hi), hstaged, Bool.false_and, Bool.or_false]

end

/-- What a step makes of the current bank when it commits a mispredicted branch: the advance of a cycle without a pop,
flushed (R322). -/
theorem step_flushes {s t : State} (hr : RatOk s.cur) (h : step s = .next t) (hc : s.cur.commits = true)
    (hk : s.cur.robHeadEntry.kind = .branch)
    (hp : (s.cur.robHeadEntry.value != 0#32) ≠ s.cur.robHeadEntry.predicted) :
    ∃ st m, StagingOk s.cfg s.cur st ∧ Advance s.cfg s.cur st false m
      ∧ t.cur = { flushBank s.cfg s.cur.robHead s.cur.robHeadEntry.correctTarget m with
          clock := s.cur.clock + 1 } := by
  obtain ⟨hs, u, v, hu, hv, rfl⟩ := step_commits h
  obtain ⟨st, hst, hA⟩ := hu.advance hr
  rw [← hu.cur] at hc hk hp hA ⊢
  cases ((commitStep_of_branch hc hk).trans (commitBranch_wrong u hp)).symm.trans hv
  have htrained := predUpdate_advance hA u.cur.robHeadEntry.baddr (u.cur.robHeadEntry.value != 0#32)
  rw [predUpdate_cur] at htrained
  refine ⟨st, _, hu.cur ▸ hst, htrained, ?_⟩
  rw [endCycle_of_running (s := flushMispredicted _ (predUpdate _ _ u))
      ((predUpdate_status ..).trans (hu.status.trans hs)),
    publish_cur, flushMispredicted_nxt, flushMispredicted_cur, predUpdate_cfg, predUpdate_cur, hu.cfg]

theorem Flushed.clock {c : Config} {b n : Bank} (h : Flushed c b n) (k : Nat) : Flushed c b { n with clock := k } :=
  { h with }

/-- Settles O35: `Flushed` says what a flush makes of the bank the cycle has computed, `Advance` what that bank's
committed stores are; no register value changes because the head is no RegisterWrite entry (O37). -/
theorem mispredictionFlush : Obligations.MispredictionFlush := by
  intro s t hI h hc hk hp e
  obtain ⟨st, m, hst, hA, hcur⟩ := step_flushes hI.rat h hc hk hp
  have hF := (flushBank_flushed s.cfg s.cur.robHead e.correctTarget m).clock (s.cur.clock + 1)
  rw [← hcur] at hF
  have hm := hA.bankInv hI.bank hst
  have hhead : t.cur.robHead = s.cur.robHead + 1#5 := by rw [hcur]; exact flushBank_robHead ..
  have hocc {i : Nat} (hi : i < s.cfg.lsqSize) :=
    (hF.lsqOccupied_iff hm hi).trans (hA.committedStore_iff hI.bank hst hi)
  refine ⟨?_, hF.fetchStopped, hF.jalrWait, hhead, hF.rob ▸ hhead, fun _ hx => hF.rs_empty hx, fun f hf => ?_,
    fun r => ⟨hF.drained.clean r, ?_⟩, fun i hi => hocc hi, fun i hi ho => ?_, fun hempty => ?_⟩
  · rw [hcur]
    exact flushBank_pc ..
  · obtain ⟨cl, u, rfl⟩ := mem_units.mp hf
    rw [hF.fu, FuArray.idle_unit]
  · exact (registersChangeOnlyByCommit s t h r).trans (if_neg (not_writesRegister_of_kind (by simp [hk]) r))
  · obtain ⟨hb, hcom, -⟩ := (hocc hi).mp ho
    rw [hF.lsqAt, hA.lsqAt_of_committedStore hI.bank hi hb hcom]
  · by_contra hin
    obtain ⟨hne, -⟩ := hF.inflight (by simpa using hin)
    rw [← hF.lsqHead] at hne
    exact hne (by simpa [Bank.lsqEmpty] using hempty)

end Sys2Proof.Machine
end

section
/-! PROOFS of the families 47_register_alias_table.md (O21, O34, O49), 48_branch_predictor.md (O41, O42),
70_reset_and_hazards.md (O46, O48) and of the decisions of the fetch unit and the queue (O19, O23, O28): each is read
off what `step_advance`, the frames and the canonical tables say of the units. -/

namespace Sys2Proof.Machine

/-! ### The register alias table over a step (R347) -/

/-- A bank with no entry in the buffer and no dirty register has an exact alias table. -/
theorem Drained.ratOk {n : Bank} (hd : Drained n) : RatOk n where
  dirtyHasProducer := fun i h => absurd ((hd.clean i).symm.trans h) (by decide)
  producerMakesDirty := fun _ t _ h => absurd h.1 (not_robOccupied_of_empty hd.rob t)
  depIsYoungest := fun i _ h => absurd ((hd.clean i).symm.trans h) (by decide)

theorem Flushed.zeroOk {c : Config} {b n : Bank} (hF : Flushed c b n) (hz : ZeroOk b) : ZeroOk n := by
  refine ⟨?_, hF.drained.clean 0#5⟩
  rw [hF.clean]
  exact hz.1

/-- Settles O49: a step halts on the current bank, advances it (`Advance.ratOk`), or flushes it, after which nothing is
in flight and no register is dirty. -/
theorem stepKeepsTheAliasTable : Obligations.StepKeepsTheAliasTable := by
  intro s t hz hr h
  rcases step_advance hr h with hc | ⟨st, hst, ⟨pop, hA⟩ | ⟨m, i, a, k, hA, hn⟩⟩
  · rw [hc]
    exact ⟨hz, hr⟩
  · exact ⟨hA.zeroOk hz, hA.ratOk hst hz hr⟩
  · have hF := (flushBank_flushed s.cfg i a m).clock k
    rw [← hn] at hF
    exact ⟨hF.zeroOk (hA.zeroOk hz), hF.drained.ratOk⟩

/-! ### Reading a source register (R347, R348) -/

theorem resolve_zero (s : State) : resolve s 0#5 = .value 0#32 := by simp [resolve]

/-- A clean register resolves to its committed value; register 0 reads 0 (R345, R348). -/
theorem resolve_of_clean {s : State} (hz : ZeroOk s.cur) {r : Reg} (hd : (slotGet s.cur.reg r).dirty = false) :
    resolve s r = .value (slotGet s.cur.reg r).value := by
  by_cases hr : r = 0#5
  · subst hr
    rw [resolve_zero, hz.1]
  · simp [resolve, hr, hd, Bank.regRead]

/-- A dirty register resolves through the slot its `dep` names (R348). -/
theorem resolve_of_dirty {s : State} {r : Reg} (hr : r ≠ 0#5) (hd : (slotGet s.cur.reg r).dirty = true) :
    resolve s r = if (slotGet s.cur.rob (slotGet s.cur.reg r).dep).ready
      then .value (slotGet s.cur.rob (slotGet s.cur.reg r).dep).value else .wait (slotGet s.cur.reg r).dep := by
  simp [resolve, hr, hd]

theorem robAge_inj {b : Bank} {i j : Slot} (h : b.robAge i = b.robAge j) : i = j := by
  unfold Bank.robAge at h
  bv_omega

/-- The `dep` of a register is the youngest of its producers. -/
theorem RatOk.dep_eq {b : Bank} (hr : RatOk b) {r : Reg} {t : Slot} (hne : r ≠ 0#5) (ht : b.produces t r)
    (hy : ∀ t', b.produces t' r → b.robAge t' ≤ b.robAge t) : (slotGet b.reg r).dep = t := by
  have hd := hr.producerMakesDirty r t hne ht
  exact robAge_inj (Nat.le_antisymm (hy _ (hr.dirtyHasProducer r hd)) (hr.depIsYoungest r t hd ht))

/-- Settles O21: the alias table is exact, so a clean register has no producer and `dep` is the youngest one. -/
theorem resolveReadsYoungestProducer : Obligations.ResolveReadsYoungestProducer := by
  intro s r hI
  refine ⟨resolve_zero s, fun hno => ?_, fun t hne ht hy => ?_⟩
  · refine resolve_of_clean hI.zero ?_
    by_contra hd
    exact hno _ (hI.rat.dirtyHasProducer r (by simpa using hd))
  · have hdep := hI.rat.dep_eq hne ht hy
    rw [resolve_of_dirty hne (hI.rat.producerMakesDirty r t hne ht), hdep]

/-- Settles O34: the flush maps the register file of the next copy, whatever was staged into it. -/
theorem flushCleansTheAliasTable : Obligations.FlushCleansTheAliasTable := fun e s r =>
  (flushBank_flushed s.cfg s.cur.robHead e.correctTarget s.nxt).clean r

/-! ### The branch predictor (R355 to R359) -/

theorem bucketIndex_eq (a : Word) : bucketIndex a = a.toNat % 4096 := by
  simp [bucketIndex]

/-- The staged table holds the trained bucket at the branch's index and the old ones elsewhere (R357). -/
theorem predUpdate_bucket {s : State} (hw : Predictor.Wf s.cur.pred) (hn : s.nxt.pred = s.cur.pred) (a : Word)
    (actual : Bool) (j : Nat) :
    (predUpdate a actual s).nxt.pred.bucket j
      = if j = bucketIndex a then (s.cur.pred.bucket (bucketIndex a)).train actual else s.cur.pred.bucket j := by
  rw [predUpdate_nxt, hn]
  split
  · next h => subst h; exact bucket_put_same hw _ _
  · next h => exact bucket_put_ne _ _ h

/-- The outcome enters the history at the low end and the oldest bit leaves it (R357). -/
theorem train_hist (b : Bucket) (actual : Bool) :
    (b.train actual).hist = (b.hist <<< 1) ||| (if actual then 1#4 else 0#4) := by
  simp only [Bucket.train]
  generalize b.hist = h
  revert h actual
  decide

/-- Only the pattern entry at the old history is overwritten (R357). -/
theorem train_look (b : Bucket) (actual : Bool) (g : BitVec 4) :
    (b.train actual).look g = if g = b.hist then actual else b.look g := by
  simp only [Bucket.look, Bucket.train, Vector.getElem_set, BitVec.toNat_inj, eq_comm]

/-- One counter goes up, by whether the prediction looked up now is the outcome (R358). -/
theorem predUpdate_counts (a : Word) (actual : Bool) (s : State) :
    ((predUpdate a actual s).nxt.predCorrect, (predUpdate a actual s).nxt.predIncorrect)
      = if predict s a = actual then (s.cur.predCorrect + 1, s.nxt.predIncorrect)
        else (s.nxt.predCorrect, s.cur.predIncorrect + 1) := by
  unfold predUpdate predict
  dsimp only
  split <;> rfl

/-- Settles O41: by what a write of one bucket leaves of the table, and what training leaves of the bucket. -/
theorem predictorUpdate : Obligations.PredictorUpdate := by
  intro s a actual hw hn b old t new
  have hb : bucketIndex a = b := bucketIndex_eq a
  have hbucket := predUpdate_bucket hw hn a actual
  have hnew : new = old.train actual := by rw [← hb] at *; exact (hbucket _).trans (if_pos rfl)
  have hcounts := predUpdate_counts a actual s
  refine ⟨?_, ?_, fun g => ?_, fun j hj => ?_, fun hp => ?_, fun hp => ?_⟩
  · simp only [predict, hb]
    rfl
  · rw [hnew, train_hist]
  · rw [hnew, train_look]
  · rw [hbucket, if_neg (hb ▸ hj)]
  · rw [if_pos hp, Prod.mk.injEq] at hcounts
    exact hcounts
  · rw [if_neg hp, Prod.mk.injEq] at hcounts
    exact hcounts.symm

/-- Settles O42: the two branches of `getAccuracy`. -/
theorem accuracyIsPartial : Obligations.AccuracyIsPartial := fun _ =>
  ⟨fun h => if_pos h, fun h => if_neg (Nat.ne_of_gt h)⟩

/-! ### The report of stores (R277) -/

theorem reports_iff (e : LsqEntry) :
    e.reports = true ↔ e.type.isStore = true ∧ e.basec = false ∧ e.valuec = false ∧ e.ready = false := by
  simp [LsqEntry.reports, and_assoc]

/-- Settles O28: a slot is marked exactly when a store reports it, and a report sets `ready` alone. -/
theorem storesReportToTheRob : Obligations.StoresReportToTheRob := by
  intro s j reported
  have hiff : reported ↔ s.cur.storeFinishes s.cfg j := by
    simp [reported, Bank.storeFinishes, reports_iff, and_assoc]
  have hslot := reportStores_slot s.cfg s.cur s.nxt.rob j
  have hready := (finishing_reportStores s.cfg s.cur s.nxt.rob).ready j
  constructor
  · intro h
    rcases hslot with hsame | ⟨-, hmarked⟩
    · have hr : (slotGet s.nxt.rob j).ready = true := by
        rw [← hsame]
        exact hready.mpr (.inr (hiff.mp h))
      exact hsame.trans (by rw [← hr])
    · exact hmarked
  · intro h
    rcases hslot with hsame | ⟨hrep, -⟩
    · exact hsame
    · exact absurd (hiff.mpr hrep) h

/-! ### Stalls of the fetch unit (R152, R155) -/

theorem freeRsSlot_eq_none {l : List RsEntry} (h : ∀ e ∈ l, e.empty = false) : freeRsSlot l = none :=
  List.findIdx?_eq_none_iff.mpr h

theorem dispatchComputational_of_no_slot {op : RsOp} {rd : Reg} {o1 o2 : Operand} {s : State}
    (h : freeRsSlot s.cur.rs = none) : dispatchComputational op rd o1 o2 s = .next s := by
  simp [dispatchComputational, h]

theorem dispatchBranch_of_no_slot {op : RsOp} {r1 r2 : Reg} {off : Word} {s : State}
    (h : freeRsSlot s.cur.rs = none) : dispatchBranch op r1 r2 off s = .next s := by
  simp [dispatchBranch, h]

theorem dispatchLoad_of_full {ty : LsqType} {rd r1 : Reg} {off : Word} {s : State}
    (h : s.cur.lsqFull s.cfg = true) : dispatchLoad ty rd r1 off s = .next s := by
  simp [dispatchLoad, h]

theorem dispatchStore_of_full {ty : LsqType} {r1 r2 : Reg} {off : Word} {s : State}
    (h : s.cur.lsqFull s.cfg = true) : dispatchStore ty r1 r2 off s = .next s := by
  simp [dispatchStore, h]

/-- An instruction that goes to a full station stages nothing (R155). -/
theorem exec_of_no_slot {i : Instr} {s : State} (hi : usesStation i = true) (h : freeRsSlot s.cur.rs = none) :
    exec i s = .next s := by
  cases i with
  | beq | bne | blt | bge | bltu | bgeu => exact dispatchBranch_of_no_slot h
  | addi | slti | sltiu | xori | ori | andi | slli | srli | srai => exact dispatchComputational_of_no_slot h
  | add | sub | sll | slt | sltu | xor | srl | sra | or | and => exact dispatchComputational_of_no_slot h
  | endProg | lui | auipc | jal | jalr | lb | lh | lw | lbu | lhu | sb | sh | sw => cases hi

/-- An instruction that goes to a full queue stages nothing (R155). -/
theorem exec_of_lsqFull {i : Instr} {s : State} (hi : usesQueue i = true) (h : s.cur.lsqFull s.cfg = true) :
    exec i s = .next s := by
  cases i with
  | lb | lh | lw | lbu | lhu => exact dispatchLoad_of_full h
  | sb | sh | sw => exact dispatchStore_of_full h
  | endProg | lui | auipc | jal | jalr | beq | bne | blt | bge | bltu | bgeu => cases hi
  | addi | slti | sltiu | xori | ori | andi | slli | srli | srai => cases hi
  | add | sub | sll | slt | sltu | xor | srl | sra | or | and => cases hi

/-- Settles O19. -/
theorem fullStructureStalls : Obligations.FullStructureStalls := fun _ _ =>
  ⟨fun hi h => exec_of_no_slot hi (freeRsSlot_eq_none h), fun hi h => exec_of_lsqFull hi h⟩

/-- Settles O23: the two branches of `resolveJalr`. -/
theorem pendingJalrResolution : Obligations.PendingJalrResolution := by
  intro s hs hw p
  have hres : fetchStep s = .next (resolveJalr s) := by simp [fetchStep, hs, hw]
  refine ⟨fun hp => ?_, fun hp => ?_⟩
  · rw [hres, resolveJalr, if_neg (by rw [hp]; decide)]
  · rw [hres, resolveJalr, if_pos hp]
    rfl

/-! ### Canonical forms and reset -/

/-- Settles O48. -/
theorem stepKeepsCanonicalForms : Obligations.StepKeepsCanonicalForms := fun _ _ hm hp h =>
  ⟨step_memory_wf hm h, step_predictor_wf hp h⟩

theorem reset_look (g : BitVec 4) : Bucket.reset.look g = false := by
  simp [Bucket.look, Bucket.reset]

/-- Settles O46: the tables are replicated entries, every other field is the literal one. -/
theorem resetValues : Obligations.ResetValues := by
  unfold Obligations.ResetValues
  intro s
  refine ⟨rfl, rfl, rfl, rfl, rfl, rfl, slotGet_replicate _, slotGet_replicate _, rfl, rfl, rfl,
    fun _ he => List.eq_of_mem_replicate he, ?_, rfl, fun _ he => List.eq_of_mem_replicate he, rfl, rfl, rfl, rfl,
    fun b => ⟨rfl, reset_look⟩, rfl, rfl, rfl, rfl⟩
  intro f hf
  obtain ⟨cl, u, rfl⟩ := mem_units.mp hf
  exact FuArray.idle_unit cl u

end Sys2Proof.Machine
end

section
/-! PROOFS of R405 (O58), part 1: the run of the reference interpreter as a sequence of states, and what its memory
holds where it fetches. -/

namespace Sys2Proof.Machine

/-! ### The interpreter's run -/

/-- The interpreter's state `j` steps after `a`; it stays where the interpreter stops. -/
def trace (c : Config) (a : Arch) : Nat → Arch
  | 0 => a
  | j + 1 =>
    match seqStep c (trace c a j) with
    | .next b => b
    | .stop _ | .fatal _ => trace c a j

theorem trace_succ_of_next {c : Config} {a b : Arch} {j : Nat} (h : seqStep c (trace c a j) = .next b) :
    trace c a (j + 1) = b := by
  simp only [trace, h]

theorem trace_succ_of_stop {c : Config} {a : Arch} {j : Nat} {code : BitVec 8}
    (h : seqStep c (trace c a j) = .stop code) : trace c a (j + 1) = trace c a j := by
  simp only [trace, h]

theorem trace_shift {c : Config} {a b : Arch} (h : seqStep c a = .next b) (j : Nat) :
    trace c a (j + 1) = trace c b j := by
  induction j with
  | zero => exact trace_succ_of_next h
  | succ j ih => rw [trace, ih]; rfl

/-- A run of `n` steps is the trace, and no step before its end stops. -/
theorem seqRun_trace {c : Config} {n : Nat} {a b : Arch} (h : seqRun c n a = .next b) :
    trace c a n = b ∧ ∀ j < n, seqStep c (trace c a j) = .next (trace c a (j + 1)) := by
  induction n generalizing a with
  | zero => cases h; exact ⟨rfl, by simp⟩
  | succ n ih =>
    cases hs : seqStep c a with
    | next a' =>
      have hrun : seqRun c n a' = .next b := by simpa only [seqRun, hs] using h
      obtain ⟨hb, hsteps⟩ := ih hrun
      refine ⟨(trace_shift hs n).trans hb, fun j hj => ?_⟩
      cases j with
      | zero => rw [trace_shift hs]; exact hs
      | succ j => rw [trace_shift hs, trace_shift hs]; exact hsteps j (by omega)
    | stop code => simp [seqRun, hs] at h
    | fatal w => simp [seqRun, hs] at h

/-- The converse: a trace none of whose steps stops is a run. -/
theorem seqRun_of_trace {c : Config} {n : Nat} {a : Arch}
    (h : ∀ j < n, seqStep c (trace c a j) = .next (trace c a (j + 1))) : seqRun c n a = .next (trace c a n) := by
  induction n generalizing a with
  | zero => rfl
  | succ n ih =>
    have h0 := h 0 (by omega)
    have hs : seqStep c a = .next (trace c a 1) := h0
    simp only [seqRun, hs]
    rw [trace_shift hs n]
    refine ih fun j hj => ?_
    rw [← trace_shift hs, ← trace_shift hs]
    exact h (j + 1) (by omega)

/-- The program run from `start` reaches END after `N` steps and never fetches a byte it has stored to (R405). -/
structure Terminates (c : Config) (start : Arch) (N : Nat) : Prop where
  steps : ∀ j < N, seqStep c (trace c start j) = .next (trace c start (j + 1))
  stops : ∃ code, seqStep c (trace c start N) = .stop code
  fresh : ∀ i j, i < j → j ≤ N → ∀ x ∈ stepStores c (trace c start i), ∀ k < 4,
    x ≠ (trace c start j).pc + BitVec.ofNat 32 k

theorem terminates_of_run {c : Config} {start a : Arch} {n : Nat} {code : BitVec 8}
    (hrun : seqRun c n start = .next a) (hstop : seqStep c a = .stop code) (hfresh : NeverFetchesStored c start) :
    Terminates c start n := by
  obtain ⟨rfl, hsteps⟩ := seqRun_trace hrun
  refine ⟨hsteps, ⟨code, hstop⟩, fun i j hij hj x hx k hk => ?_⟩
  have hprefix {m : Nat} (hm : m ≤ n) : seqRun c m start = .next (trace c start m) :=
    seqRun_of_trace fun l hl => hsteps l (by omega)
  have hnot := hfresh i j _ _ hij (hprefix (by omega)) (hprefix hj) x hx
  simp only [List.mem_cons, List.not_mem_nil, or_false, not_or] at hnot
  obtain ⟨h0, h1, h2, h3⟩ := hnot
  match k with
  | 0 => simpa using h0
  | 1 => exact h1
  | 2 => exact h2
  | 3 => exact h3

/-! ### The instructions of the run -/

/-- An interpreter step that goes on applies the effect of the instruction fetched, which is not END. -/
theorem seqStep_eq_next {c : Config} {a b : Arch} (h : seqStep c a = .next b) :
    ∃ i, decode c.endWord (memRead4 a.mem a.pc) = .ok i ∧ i ≠ .endProg ∧ b = archEffect c.auipcMode i a := by
  unfold seqStep at h
  dsimp only at h
  split at h
  · cases h
  · cases h
  · next i hne hi => cases h; exact ⟨i, hi, fun he => hne (he ▸ rfl), rfl⟩

theorem seqStep_eq_stop {c : Config} {a : Arch} {code : BitVec 8} (h : seqStep c a = .stop code) :
    decode c.endWord (memRead4 a.mem a.pc) = .ok .endProg ∧ code = (a.read a0).setWidth 8 := by
  unfold seqStep at h
  dsimp only at h
  split at h
  · cases h
  · next hi => cases h; exact ⟨hi, rfl⟩
  · cases h

theorem seqStep_of_endProg {c : Config} {a : Arch} (h : decode c.endWord (memRead4 a.mem a.pc) = .ok .endProg) :
    seqStep c a = .stop ((a.read a0).setWidth 8) := by
  simp only [seqStep, h]

section
variable {c : Config} {start : Arch} {N : Nat} (hT : Terminates c start N)
include hT

/-- Only the last state of the run stops. -/
theorem Terminates.last_of_stop {j : Nat} (hj : j ≤ N) {code : BitVec 8}
    (h : seqStep c (trace c start j) = .stop code) : j = N := by
  by_contra hne
  rw [hT.steps j (by omega)] at h
  cases h

/-- The instruction at each place of the run: END at the last, elsewhere one whose effect leads on. -/
theorem Terminates.instr {j : Nat} (hj : j ≤ N) :
    ∃ i, decode c.endWord (memRead4 (trace c start j).mem (trace c start j).pc) = .ok i
      ∧ (i ≠ .endProg → j < N) ∧ trace c start (j + 1) = archEffect c.auipcMode i (trace c start j) := by
  rcases Nat.lt_or_ge j N with hlt | hge
  · obtain ⟨i, hi, -, heff⟩ := seqStep_eq_next (hT.steps j hlt)
    exact ⟨i, hi, fun _ => hlt, heff⟩
  · obtain rfl : j = N := by omega
    obtain ⟨code, hstop⟩ := hT.stops
    obtain ⟨hi, -⟩ := seqStep_eq_stop hstop
    exact ⟨_, hi, fun h => absurd rfl h, trace_succ_of_stop hstop⟩

end

/-! ### What the run has stored -/

/-- One of the first `j` instructions of the run stores to byte `x`. -/
def storedBefore (c : Config) (start : Arch) (j : Nat) (x : Word) : Prop :=
  ∃ i < j, x ∈ stepStores c (trace c start i)

theorem storedBefore.mono {c : Config} {start : Arch} {j k : Nat} {x : Word} (h : storedBefore c start j x)
    (hjk : j ≤ k) : storedBefore c start k x := by
  obtain ⟨i, hi, hx⟩ := h
  exact ⟨i, by omega, hx⟩

@[simp] theorem Arch.advance_mem (a : Arch) : a.advance.mem = a.mem := rfl

@[simp] theorem Arch.compute_mem (a : Arch) (op : RsOp) (rd : Reg) (u v : Word) :
    (a.compute op rd u v).mem = a.mem := by simp [Arch.compute]

@[simp] theorem Arch.branch_mem (a : Arch) (op : RsOp) (r1 r2 : Reg) (imm : BitVec 13) :
    (a.branch op r1 r2 imm).mem = a.mem := by
  unfold Arch.branch
  split <;> rfl

/-- A write of one, two or four bytes leaves every other byte (R63). -/
theorem readByte_memWrite_of_not_mem {m : Memory} {a v x : Word} {n : Nat} {l : List Word}
    (hl : l = (List.range n).map fun j => a + BitVec.ofNat 32 j) (hx : x ∉ l) :
    readByte (memWrite m a n v) x = readByte m x := by
  rw [hl, List.mem_map] at hx
  exact readByte_memWrite_outside _ _ _ _ fun j hj he => hx ⟨j, List.mem_range.mpr hj, he.symm⟩

/-- An instruction changes only the bytes it stores to. -/
theorem archEffect_readByte {mode : AuipcMode} {i : Instr} {a : Arch} {x : Word} (hx : x ∉ storedBytes i a) :
    readByte (archEffect mode i a).mem x = readByte a.mem x := by
  cases i with
  | sb | sh | sw => exact readByte_memWrite_of_not_mem (by simp [storedBytes, List.range_succ]) hx
  | auipc => cases mode <;> simp [archEffect]
  | endProg | lui | jal | jalr => simp [archEffect]
  | beq | bne | blt | bge | bltu | bgeu => simp [archEffect]
  | lb | lh | lw | lbu | lhu => simp [archEffect]
  | addi | slti | sltiu | xori | ori | andi | slli | srli | srai => simp [archEffect]
  | add | sub | sll | slt | sltu | xor | srl | sra | or | and => simp [archEffect]

section
variable {c : Config} {start : Arch} {N : Nat} (hT : Terminates c start N)
include hT

/-- The run's memory differs from the first one only where an instruction has stored. -/
theorem Terminates.mem_of_not_stored {j : Nat} (hj : j ≤ N) {x : Word} (hx : ¬storedBefore c start j x) :
    readByte (trace c start j).mem x = readByte start.mem x := by
  induction j with
  | zero => rfl
  | succ j ih =>
    obtain ⟨i, hi, -, heff⟩ := hT.instr (j := j) (by omega)
    have hnot : x ∉ storedBytes i (trace c start j) := fun hmem =>
      hx ⟨j, by omega, by simpa [stepStores, hi] using hmem⟩
    rw [heff, archEffect_readByte hnot]
    exact ih (by omega) fun h => hx (h.mono (by omega))

/-- A memory that differs from the first one only where the run has stored before holds the word the run fetches. -/
theorem Terminates.fetch_eq {j : Nat} (hj : j ≤ N) {m : Memory}
    (hm : ∀ x, readByte m x ≠ readByte start.mem x → storedBefore c start j x) :
    memRead4 m (trace c start j).pc = memRead4 (trace c start j).mem (trace c start j).pc := by
  have hbyte (k : Nat) (hk : k < 4) : readByte m ((trace c start j).pc + BitVec.ofNat 32 k)
      = readByte (trace c start j).mem ((trace c start j).pc + BitVec.ofNat 32 k) := by
    have hnot : ¬storedBefore c start j ((trace c start j).pc + BitVec.ofNat 32 k) := by
      rintro ⟨i, hi, hx⟩
      exact hT.fresh i j hi hj _ hx k hk rfl
    rw [hT.mem_of_not_stored hj hnot]
    by_contra hne
    exact hnot (hm _ hne)
  have h0 := hbyte 0 (by decide)
  have h1 := hbyte 1 (by decide)
  have h2 := hbyte 2 (by decide)
  have h3 := hbyte 3 (by decide)
  simp only [BitVec.add_zero] at h0
  simp only [memRead4, h0, h1, h2, h3]

end

end Sys2Proof.Machine
end

section
/-! PROOFS of R405 (O58), part 2: what the entries of an instruction in flight stand for, and that the dispatch of an
instruction of the run stages entries that stand for it. -/

namespace Sys2Proof.Machine

/-! ### What entries in flight stand for -/

/-- An operand field pair that stands for `x`: it waits for slot `q`, which `W` says will hold `x`, or it is `x`. -/
def Awaits (W : Slot → Word → Prop) (waits : Bool) (q : Slot) (v x : Word) : Prop :=
  if waits then W q x else v = x

theorem awaits_known {W : Slot → Word → Prop} {q : Slot} {v x : Word} : Awaits W false q v x ↔ v = x := by
  simp [Awaits]

theorem awaits_waiting {W : Slot → Word → Prop} {q : Slot} {v x : Word} : Awaits W true q v x ↔ W q x := by
  simp [Awaits]

/-- The outcome of resolving a register stands for `x`. -/
def Operand.StandsFor (W : Slot → Word → Prop) (o : Operand) (x : Word) : Prop :=
  Awaits W o.constraint o.producer o.valueOr0 x

/-- The RoB entry `e` is that of the instruction that leads the interpreter from `a` to `a'` with the result `v` (a
branch's result is its condition). -/
structure EntryMeans (c : Config) (a a' : Arch) (v : Word) (e : RobEntry) : Prop where
  regs : ∀ r, a'.read r = if e.kind = .registerWrite ∧ e.dest.setWidth 5 = r ∧ r ≠ 0#5 then v else a.read r
  mem : e.kind ≠ .memoryWrite → a'.mem = a.mem
  value : e.ready = true → e.kind = .registerWrite ∨ e.kind = .branch → e.value = v
  target : e.kind = .branch → a'.pc = if v != 0#32 then e.dest else e.baddr + 4#32
  stop : e.kind = .endProg → ∃ code, seqStep c a = .stop code
  dest : e.kind = .registerWrite → e.dest = (e.dest.setWidth 5).setWidth 32

/-- The station entry `r` computes `v`. -/
def StationMeans (W : Slot → Word → Prop) (v : Word) (r : RsEntry) : Prop :=
  ∃ x y, v = execute r.op x y ∧ Awaits W r.q1c r.q1 r.v1 x ∧ Awaits W r.q2c r.q2 r.v2 y

/-- The queue entry `q` is the access of the instruction that leads the interpreter from `a` to `a'` with the result
`v`. -/
def QueueMeans (c : Config) (W : Slot → Word → Prop) (a a' : Arch) (v : Word) (q : LsqEntry) : Prop :=
  ∃ x y, Awaits W q.basec q.baseq q.base x ∧ Awaits W q.valuec q.valueq q.value y
    ∧ (q.type.isLoad = true → v = loadedValue a.mem q.type (x + q.offset))
    ∧ (q.type.isStore = true → a'.mem = memWrite a.mem (x + q.offset) q.type.bytes y
      ∧ ∀ k < q.type.bytes, x + q.offset + BitVec.ofNat 32 k ∈ stepStores c a)

/-- Fetching goes on at `a'`: at its pc, or as soon as the JALR waited for has its base. -/
def ResumesAt (W : Slot → Word → Prop) (b : Bank) (a' : Arch) : Prop :=
  (b.jalrWait.valid = false → b.pc = a'.pc)
    ∧ (b.jalrWait.valid = true → ∃ x, W b.jalrWait.q x ∧ jalrTarget x b.jalrWait.imm = a'.pc)

/-- What the fetch step leading from `s` to `t` makes of the instruction that leads the interpreter from `a` to `a'`:
nothing, as its structure is full; a new pc alone, which is all its effect; or entries that stand for it. -/
inductive Dispatched (W : Slot → Word → Prop) (a a' : Arch) (s t : State) : Prop
  | stalled (ht : t = s) (why : freeRsSlot s.cur.rs = none ∨ s.cur.lsqFull s.cfg = true)
  | moved (ht : t = setNextPc a'.pc s) (hx : ∀ r, a'.read r = a.read r) (hm : a'.mem = a.mem)
  | staged (st : Staging) (e : RobEntry) (v : Word) (hst : StagingOk s.cfg s.cur st) (hs : Staged st s t)
    (he : st.entry = some e) (hm : EntryMeans s.cfg a a' v e)
    (station : ∀ k r, st = .station e k r → StationMeans W v r)
    (queue : ∀ q, st = .queue e q → QueueMeans s.cfg W a a' v q)
    (resumes : e.kind ≠ .endProg → (e.kind = .branch → e.predicted = (v != 0#32)) → ResumesAt W t.nxt a')

/-! ### The interpreter's registers -/

theorem Arch.read_congr {a a' : Arch} (h : a'.x = a.x) (r : Reg) : a'.read r = a.read r := by
  rw [Arch.read, Arch.read, h]

theorem Arch.read_write (a : Arch) (i r : Reg) (v : Word) :
    (a.write i v).read r = if i = r ∧ r ≠ 0#5 then v else a.read r := by
  unfold Arch.read
  by_cases hr : r = 0#5
  · simp [hr]
  · rw [if_neg hr, if_neg hr, Arch.write_x]
    by_cases hi : i = r
    · subst hi
      simp [hr]
    · simp [hi, Ne.symm hi]

theorem regWriteEntry_means {c : Config} {a a' : Arch} {rd : Reg} {ready : Bool} {v w : Word}
    (hx : ∀ r, a'.read r = (a.write rd v).read r) (hm : a'.mem = a.mem) (hv : ready = true → w = v) :
    EntryMeans c a a' v (regWriteEntry rd ready w) where
  regs := fun r => by
    rw [hx, Arch.read_write]
    simp [regWriteEntry]
  mem := fun _ => hm
  value := fun h _ => hv h
  target := nofun
  stop := nofun
  dest := fun _ => by simp [regWriteEntry]

/-! ### The classes of dispatch -/

section
variable {W : Slot → Word → Prop} {a a' : Arch} {s t : State} (hf : s.cur.MayFetch)
  (hw : s.nxt.jalrWait.valid = false)
include hf hw

theorem dispatchReady_dispatched {rd : Reg} {v p : Word} (h : dispatchReady rd v p s = .next t)
    (hx : ∀ r, a'.read r = (a.write rd v).read r) (hm : a'.mem = a.mem) (hp : a'.pc = p) :
    Dispatched W a a' s t := by
  rw [dispatchReady_of_not_full hf.notFull] at h
  cases h
  refine .staged (.alone (regWriteEntry rd true v)) _ v
    (stagingOk_alone hf (fun _ => ⟨rd, rfl⟩) rfl (by simp [regWriteEntry])) (.of_nxt rfl fun _ => .inl rfl) rfl
    (regWriteEntry_means hx hm fun _ => rfl) (by simp) (by simp) fun _ _ => ⟨fun _ => hp.symm, fun hv => ?_⟩
  exact absurd (hw.symm.trans hv) (by decide)

variable (hr : RatOk s.cur) (hW : ∀ r, (resolve s r).StandsFor W (a.read r))

theorem dispatchComputational_dispatched {op : RsOp} {rd : Reg} {o1 o2 : Operand} {x y : Word}
    (hop : op.isBranch = false) (h1 : o1.Ok s.cur) (h2 : o2.Ok s.cur) (hx : o1.StandsFor W x) (hy : o2.StandsFor W y)
    (h : dispatchComputational op rd o1 o2 s = .next t) (hpc : s.cur.pc = a.pc) (ha : a' = a.compute op rd x y) :
    Dispatched W a a' s t := by
  subst ha
  cases hk : freeRsSlot s.cur.rs with
  | none =>
    simp only [dispatchComputational, hk] at h
    cases h
    exact .stalled rfl (.inl hk)
  | some k =>
    rw [dispatchComputational_of_room hf.notFull hk] at h
    cases h
    refine .staged (.station (regWriteEntry rd false 0#32) k _) _ (execute op x y)
      (stagingOk_station hf (fun _ => ⟨rd, rfl⟩)
        (rsEntry_push (op := op) hk h1 h2 rfl (by simp [hop, regWriteEntry])))
      (.of_nxt rfl fun _ => .inl rfl) rfl (regWriteEntry_means (Arch.read_congr rfl) (Arch.compute_mem ..) nofun) ?_
      (by simp)
      fun _ _ => ⟨fun _ => ?_, fun hv => absurd (hw.symm.trans hv) (by decide)⟩
    · rintro _ _ ⟨⟩
      exact ⟨x, y, rfl, hx, hy⟩
    · show s.cur.pc + 4#32 = (a.write rd _).pc + 4#32
      rw [hpc, Arch.write_pc]

include hr hW

theorem dispatchBranch_dispatched {op : RsOp} {r1 r2 : Reg} {imm : BitVec 13} (hop : op.isBranch = true)
    (h : dispatchBranch op r1 r2 (immSext13 imm) s = .next t) (hpc : s.cur.pc = a.pc)
    (ha : a' = a.branch op r1 r2 imm) : Dispatched W a a' s t := by
  subst ha
  have hcond : (execute op (a.read r1) (a.read r2) = 1#32) ↔ (execute op (a.read r1) (a.read r2) != 0#32) = true := by
    rw [execute_of_isBranch hop]
    cases execute op (a.read r1) (a.read r2) != 0#32 <;> decide
  have hpcs : (a.branch op r1 r2 imm).pc
      = if execute op (a.read r1) (a.read r2) != 0#32 then a.pc + immSext13 imm else a.pc + 4#32 := by
    unfold Arch.branch
    simp only [hcond]
    split <;> rfl
  have hread (r : Reg) : (a.branch op r1 r2 imm).read r = a.read r := by
    unfold Arch.branch
    split <;> rfl
  cases hk : freeRsSlot s.cur.rs with
  | none =>
    simp only [dispatchBranch, hk] at h
    cases h
    exact .stalled rfl (.inl hk)
  | some k =>
    rw [dispatchBranch_of_room hf.notFull hk] at h
    cases h
    refine .staged (.station (branchEntry (predict s s.cur.pc) (s.cur.pc + immSext13 imm) s.cur.pc) k _) _
      (execute op (a.read r1) (a.read r2))
      (stagingOk_station hf (by simp [branchEntry])
        (rsEntry_push (op := op) hk (resolve_ok hr r1) (resolve_ok hr r2) rfl (by simp [hop, branchEntry])))
      (.of_nxt rfl fun _ => .inl rfl) rfl ⟨fun r => ?_, fun _ => Arch.branch_mem .., nofun, fun _ => ?_, nofun, nofun⟩
      ?_ (by simp) fun _ hpred => ⟨fun _ => ?_, fun hv => absurd (hw.symm.trans hv) (by decide)⟩
    · rw [hread]
      simp [branchEntry]
    · rw [hpcs, branchEntry, hpc]
    · rintro _ _ ⟨⟩
      exact ⟨_, _, rfl, hW r1, hW r2⟩
    · rw [hpcs, ← hpred rfl, ← hpc]
      rfl

theorem dispatchLoad_dispatched {ty : LsqType} {rd r1 : Reg} {imm : BitVec 12} (hty : ty.isLoad = true)
    (h : dispatchLoad ty rd r1 (immSext12 imm) s = .next t) (hpc : s.cur.pc = a.pc)
    (ha : a' = (a.write rd (loadedValue a.mem ty (a.addr r1 imm))).advance) : Dispatched W a a' s t := by
  subst ha
  cases hq : s.cur.lsqFull s.cfg with
  | true =>
    simp only [dispatchLoad, hq] at h
    cases h
    exact .stalled rfl (.inr hq)
  | false =>
    rw [dispatchLoad_of_room hf.notFull hq] at h
    cases h
    refine .staged (.queue (regWriteEntry rd false 0#32) (loadEntry ty s.cur.robTail (resolve s r1) (immSext12 imm)))
      _ (loadedValue a.mem ty (a.addr r1 imm))
      (stagingOk_queue hf (fun _ => ⟨rd, rfl⟩) ⟨hq, rfl, fun _ => ⟨rfl, rfl, rfl⟩,
        by simp [loadEntry, LsqType.isStore, hty], rfl, resolve_ok hr r1, nofun⟩)
      (.of_nxt rfl fun _ => .inl rfl) rfl (regWriteEntry_means (Arch.read_congr rfl) (Arch.write_mem ..) nofun)
      (by simp) ?_
      fun _ _ => ⟨fun _ => ?_, fun hv => absurd (hw.symm.trans hv) (by decide)⟩
    · rintro _ ⟨⟩
      exact ⟨a.read r1, 0#32, hW r1, rfl, fun _ => rfl, by simp [loadEntry, LsqType.isStore, hty]⟩
    · show s.cur.pc + 4#32 = (a.write rd _).pc + 4#32
      rw [hpc, Arch.write_pc]

theorem dispatchStore_dispatched {ty : LsqType} {r1 r2 : Reg} {imm : BitVec 12} (hty : ty.isStore = true)
    (h : dispatchStore ty r1 r2 (immSext12 imm) s = .next t) (hpc : s.cur.pc = a.pc)
    (ha : a' = { a with mem := memWrite a.mem (a.addr r1 imm) ty.bytes (a.read r2) }.advance)
    (hbytes : stepStores s.cfg a = (List.range ty.bytes).map fun k => a.addr r1 imm + BitVec.ofNat 32 k) :
    Dispatched W a a' s t := by
  subst ha
  have hld : ty.isLoad = false := LsqType.isStore_iff.mp hty
  cases hq : s.cur.lsqFull s.cfg with
  | true =>
    simp only [dispatchStore, hq] at h
    cases h
    exact .stalled rfl (.inr hq)
  | false =>
    rw [dispatchStore_of_room hf.notFull hq] at h
    cases h
    refine .staged (.queue (memWriteEntry s.cur.lsqTail)
        (storeEntry ty s.cur.robTail (resolve s r1) (resolve s r2) (immSext12 imm))) _ 0#32
      (stagingOk_queue hf (by simp [memWriteEntry]) ⟨hq, rfl, by simp [storeEntry, hld], fun _ => ⟨rfl, rfl, rfl⟩,
        rfl, resolve_ok hr r1, resolve_ok hr r2⟩)
      (.of_nxt rfl fun _ => .inl rfl) rfl
      ⟨fun r => by simp [memWriteEntry, Arch.read, Arch.advance], fun hk => absurd rfl hk, nofun, nofun, nofun, nofun⟩
      (by simp) ?_ fun _ _ => ⟨fun _ => congrArg (· + 4#32) hpc, fun hv => absurd (hw.symm.trans hv) (by decide)⟩
    rintro _ ⟨⟩
    refine ⟨a.read r1, a.read r2, hW r1, hW r2, by simp [storeEntry, hld], fun _ => ⟨rfl, fun k hk => ?_⟩⟩
    rw [hbytes]
    exact List.mem_map.mpr ⟨k, List.mem_range.mpr hk, rfl⟩

theorem execJalr_dispatched {rd r1 : Reg} {imm : BitVec 12} (h : execJalr rd r1 imm s = .next t)
    (hpc : s.cur.pc = a.pc)
    (ha : a' = { a.write rd (a.pc + 4#32) with pc := jalrTarget (a.read r1) (immSext12 imm) }) :
    Dispatched W a a' s t := by
  subst ha
  have hres := hW r1
  cases hv : resolve s r1 with
  | value v =>
    rw [hv] at hres
    have hval : v = a.read r1 := hres
    rw [execJalr_eq_dispatchReady hf.notFull hv, hpc, hval] at h
    exact dispatchReady_dispatched hf hw h (Arch.read_congr rfl) (Arch.write_mem ..) rfl
  | wait q =>
    rw [hv] at hres
    have hslot : W q (a.read r1) := hres
    rw [execJalr, robAdd_of_not_full hf.notFull, bindNext_next, hv, hpc] at h
    cases h
    exact .staged (.alone (regWriteEntry rd true (a.pc + 4#32))) _ (a.pc + 4#32)
      (stagingOk_alone hf (fun _ => ⟨rd, rfl⟩) rfl (by simp [regWriteEntry]))
      (.of_nxt rfl fun _ => .inr ⟨resolve_pending hr hv, ⟨_, rfl⟩, rfl⟩) rfl
      (regWriteEntry_means (Arch.read_congr rfl) (Arch.write_mem ..) fun _ => rfl) (by simp) (by simp)
      fun _ _ => ⟨nofun, fun _ => ⟨_, hslot, rfl⟩⟩

/-- Every instruction of the run is dispatched as what it does to the interpreter's state. -/
theorem exec_dispatched {i : Instr} (hi : decode s.cfg.endWord (memRead4 a.mem a.pc) = .ok i)
    (hpc : s.cur.pc = a.pc) (h : exec i s = .next t) :
    Dispatched W a (archEffect s.cfg.auipcMode i a) s t := by
  have hstores : stepStores s.cfg a = storedBytes i a := by simp only [stepStores, hi]
  have hval (v : Word) : (Operand.value v).StandsFor W v := rfl
  cases i with
  | endProg =>
    replace h : execEnd s = .next t := h
    rw [execEnd, robAdd_of_not_full hf.notFull] at h
    cases h
    exact .staged (.alone endEntry) _ 0#32 (stagingOk_alone hf nofun rfl (by simp [endEntry]))
      (.of_nxt rfl fun _ => .inl rfl) rfl
      ⟨fun r => by simp [endEntry, archEffect], fun _ => rfl, by simp [endEntry], nofun,
        fun _ => ⟨_, seqStep_of_endProg hi⟩, nofun⟩
      (by simp) (by simp) fun hk => absurd rfl hk
  | lui rd imm =>
    exact dispatchReady_dispatched hf hw h (Arch.read_congr rfl) (Arch.write_mem ..)
      (by simp [archEffect, Arch.advance, hpc])
  | auipc rd imm =>
    replace h : execAuipc rd imm s = .next t := h
    cases hmode : s.cfg.auipcMode with
    | pcPlusImmNoWrite =>
      rw [execAuipc_pcPlusImmNoWrite hmode, hpc] at h
      cases h
      exact .moved rfl (fun _ => rfl) rfl
    | pcPlus4NoWrite =>
      rw [execAuipc_pcPlus4NoWrite hmode, hpc] at h
      cases h
      exact .moved rfl (fun _ => rfl) rfl
    | rv32i =>
      rw [execAuipc_rv32i hmode, hpc] at h
      exact dispatchReady_dispatched hf hw h (Arch.read_congr rfl) (Arch.write_mem ..)
        (by simp [archEffect, Arch.advance])
  | jal rd imm =>
    replace h : dispatchReady rd (s.cur.pc + 4#32) (s.cur.pc + immSext21 imm) s = .next t := h
    rw [hpc] at h
    exact dispatchReady_dispatched hf hw h (Arch.read_congr rfl) (Arch.write_mem ..) rfl
  | jalr rd rs1 imm => exact execJalr_dispatched hf hw hr hW h hpc rfl
  | beq | bne | blt | bge | bltu | bgeu => exact dispatchBranch_dispatched hf hw hr hW rfl h hpc rfl
  | lb | lh | lw | lbu | lhu => exact dispatchLoad_dispatched hf hw hr hW rfl h hpc rfl
  | sb | sh | sw =>
    exact dispatchStore_dispatched hf hw hr hW rfl h hpc rfl
      (hstores.trans (by simp [storedBytes, LsqType.bytes, List.range_succ]))
  | addi rd rs1 | slti rd rs1 | sltiu rd rs1 | xori rd rs1 | ori rd rs1 | andi rd rs1 =>
    exact dispatchComputational_dispatched hf hw rfl (resolve_ok hr _) (Operand.value_ok _ _) (hW rs1) (hval _) h hpc
      rfl
  | slli rd rs1 | srli rd rs1 | srai rd rs1 =>
    exact dispatchComputational_dispatched hf hw rfl (resolve_ok hr _) (Operand.value_ok _ _) (hW rs1) (hval _) h hpc
      rfl
  | add rd rs1 rs2 | sub rd rs1 rs2 | sll rd rs1 rs2 | slt rd rs1 rs2 | sltu rd rs1 rs2 =>
    exact dispatchComputational_dispatched hf hw rfl (resolve_ok hr _) (resolve_ok hr _) (hW rs1) (hW rs2) h hpc rfl
  | xor rd rs1 rs2 | srl rd rs1 rs2 | sra rd rs1 rs2 | or rd rs1 rs2 | and rd rs1 rs2 =>
    exact dispatchComputational_dispatched hf hw rfl (resolve_ok hr _) (resolve_ok hr _) (hW rs1) (hW rs2) h hpc rfl

end

end Sys2Proof.Machine
end

section
/-! PROOFS of R405 (O58), part 3: a state of the core follows the run (`Follows`), and every cycle that neither flushes
nor halts keeps it so (`Carries`). -/

namespace Sys2Proof.Machine

/-! ### A state of the core that follows the run -/

/-- Where in the run a state of the core stands: `done` instructions have taken effect, the fetch unit is at instruction
`next`; slot `t` of the reorder buffer holds instruction `idx t`, whose result is or will be `val t`; the slots younger
than a mispredicted branch `bad` hold no instruction of the run; `stores` are the committed stores still queued. -/
structure Ghost where
  done : Nat
  next : Nat
  idx : Slot → Nat
  val : Slot → Word
  bad : Option Slot
  stores : List LsqEntry

/-- Slot `t` holds an instruction of the run. -/
def Ghost.right (g : Ghost) (b : Bank) (t : Slot) : Prop :=
  b.robOccupied t = true ∧ ∀ w, g.bad = some w → b.robAge t ≤ b.robAge w

/-- Slot `q` holds an instruction of the run whose result is `x`. -/
def Ghost.holds (g : Ghost) (b : Bank) (q : Slot) (x : Word) : Prop := g.right b q ∧ g.val q = x

/-- Instruction `j` of the run changes only the pc: it may have no entry in the reorder buffer (R166). -/
def Quiet (c : Config) (start : Arch) (j : Nat) : Prop :=
  (∀ r, (trace c start (j + 1)).read r = (trace c start j).read r)
    ∧ (trace c start (j + 1)).mem = (trace c start j).mem

/-- The buffer holds the instructions from `done` to `next` in order, but for quiet ones. -/
structure Window (c : Config) (start : Arch) (g : Ghost) (b : Bank) : Prop where
  increasing : ∀ t u, g.right b t → g.right b u → b.robAge t < b.robAge u → g.idx t < g.idx u
  inRange : ∀ t, g.right b t → g.done ≤ g.idx t ∧ g.idx t < g.next
  covers : ∀ j, g.done ≤ j → j < g.next → (∃ t, g.right b t ∧ g.idx t = j) ∨ Quiet c start j
  le : g.done ≤ g.next

/-- Every entry in flight for an instruction of the run stands for it. -/
structure Contents (c : Config) (start : Arch) (g : Ghost) (b : Bank) : Prop where
  entry : ∀ t, g.right b t →
    EntryMeans c (trace c start (g.idx t)) (trace c start (g.idx t + 1)) (g.val t) (slotGet b.rob t)
  station : ∀ e ∈ b.rs, e.empty = false → g.right b e.rob → StationMeans (g.holds b) (g.val e.rob) e
  unit : ∀ cl u, (b.fu.unit cl u).busy = true → g.right b (b.fu.unit cl u).index →
    (b.fu.unit cl u).result = g.val (b.fu.unit cl u).index
  queue : ∀ i < c.lsqSize, b.lsqOccupied c i = true → (b.lsqAt i).committedStore = false →
    g.right b (b.lsqAt i).rob →
    QueueMeans c (g.holds b) (trace c start (g.idx (b.lsqAt i).rob)) (trace c start (g.idx (b.lsqAt i).rob + 1))
      (g.val (b.lsqAt i).rob) (b.lsqAt i)

/-- Memory with the committed stores of the queue applied in order (R321). -/
def applyStores (l : List LsqEntry) (m : Memory) : Memory := l.foldl (fun m e => storeEffect e m) m

/-- What has taken effect: registers and memory, with the committed stores that are still queued, are those of the run
after `done` instructions. -/
structure Settled (c : Config) (start : Arch) (g : Ghost) (b : Bank) (m : Memory) : Prop where
  regs : ∀ r, (slotGet b.reg r).value = (trace c start g.done).read r
  stores : ∀ i < c.lsqSize, b.lsqOccupied c i = true →
    g.stores[b.lsqAge c i]? = if (b.lsqAt i).committedStore then some (b.lsqAt i) else none
  storesLe : g.stores.length ≤ b.lsqAge c b.lsqTail
  mem : applyStores g.stores m = (trace c start g.done).mem
  memOld : ∀ x, readByte m x ≠ readByte start.mem x → storedBefore c start g.done x
  storesOld : ∀ e ∈ g.stores, ∀ k < e.type.bytes, storedBefore c start g.done (e.addr + BitVec.ofNat 32 k)

/-- The fetch unit is on the run's path, or behind the mispredicted branch that left it. -/
structure OnPath (c : Config) (start : Arch) (N : Nat) (g : Ghost) (b : Bank) : Prop where
  le : g.next ≤ N + 1
  fetches : g.bad = none → b.fetchStopped = false →
    g.next ≤ N ∧ ResumesAt (g.holds b) b (trace c start g.next)
  mispredicted : ∀ w, g.bad = some w → b.robOccupied w = true ∧ (slotGet b.rob w).kind = .branch ∧ g.idx w < N
    ∧ (slotGet b.rob w).predicted ≠ (g.val w != 0#32)

/-- The bank `b` with memory `m` follows the run from `start` that reaches END after `N` steps. -/
structure Follows (c : Config) (start : Arch) (N : Nat) (g : Ghost) (b : Bank) (m : Memory) : Prop where
  window : Window c start g b
  contents : Contents c start g b
  settled : Settled c start g b m
  path : OnPath c start N g b

/-! ### Between two instructions in flight -/

section
variable {c : Config} {start : Arch} {g : Ghost} {b : Bank} (hW : Window c start g b) (hC : Contents c start g b)
include hW hC

/-- A register that no instruction in flight from `lo` to `hi` writes is the same at both. -/
theorem Window.read_eq {lo hi : Nat} (hlo : g.done ≤ lo) (hlh : lo ≤ hi) (hhi : hi ≤ g.next) {r : Reg}
    (hno : ∀ t, g.right b t → lo ≤ g.idx t → g.idx t < hi →
      ¬((slotGet b.rob t).kind = .registerWrite ∧ (slotGet b.rob t).dest.setWidth 5 = r ∧ r ≠ 0#5)) :
    (trace c start hi).read r = (trace c start lo).read r := by
  induction hi, hlh using Nat.le_induction with
  | base => rfl
  | succ j hj ih =>
    rw [← ih (by omega) fun t ht h1 h2 => hno t ht h1 (by omega)]
    rcases hW.covers j (by omega) (by omega) with ⟨t, ht, rfl⟩ | hq
    · rw [(hC.entry t ht).regs, if_neg (hno t ht hj (by omega))]
    · exact hq.1 r

/-- Memory that no store in flight from `lo` to `hi` writes is the same at both. -/
theorem Window.mem_eq {lo hi : Nat} (hlo : g.done ≤ lo) (hlh : lo ≤ hi) (hhi : hi ≤ g.next)
    (hno : ∀ t, g.right b t → lo ≤ g.idx t → g.idx t < hi → (slotGet b.rob t).kind ≠ .memoryWrite) :
    (trace c start hi).mem = (trace c start lo).mem := by
  induction hi, hlh using Nat.le_induction with
  | base => rfl
  | succ j hj ih =>
    rw [← ih (by omega) fun t ht h1 h2 => hno t ht h1 (by omega)]
    rcases hW.covers j (by omega) (by omega) with ⟨t, ht, rfl⟩ | hq
    · exact (hC.entry t ht).mem (hno t ht hj (by omega))
    · exact hq.2

omit hC in
/-- No instruction in flight is older than the head's. -/
theorem Window.idx_head_le {t : Slot} (hh : g.right b b.robHead) (ht : g.right b t) :
    g.idx b.robHead ≤ g.idx t := by
  rcases Nat.eq_zero_or_pos (b.robAge t) with h0 | hpos
  · rw [robAge_eq_zero.mp h0]
  · exact (hW.increasing _ _ hh ht (by rwa [robAge_eq_zero.mpr rfl])).le

/-- The registers at the head's instruction are the committed ones. -/
theorem Window.read_head (hh : g.right b b.robHead) (r : Reg) :
    (trace c start (g.idx b.robHead)).read r = (trace c start g.done).read r := by
  obtain ⟨hlo, hhi⟩ := hW.inRange _ hh
  refine hW.read_eq hC le_rfl hlo hhi.le fun t ht _ hlt => ?_
  have := hW.idx_head_le hh ht
  omega

theorem Window.mem_head (hh : g.right b b.robHead) :
    (trace c start (g.idx b.robHead)).mem = (trace c start g.done).mem := by
  obtain ⟨hlo, hhi⟩ := hW.inRange _ hh
  refine hW.mem_eq hC le_rfl hlo hhi.le fun t ht _ hlt => ?_
  have := hW.idx_head_le hh ht
  omega

end

/-- An entry that is there is an instruction of the run where no branch is mispredicted. -/
theorem Ghost.right_of_path {g : Ghost} (hbad : g.bad = none) {b : Bank} {t : Slot} (ho : b.robOccupied t = true) :
    g.right b t := ⟨ho, by simp [hbad]⟩

/-- The head is always an instruction of the run. -/
theorem Ghost.right_head (g : Ghost) {b : Bank} (h : b.robEmpty = false) : g.right b b.robHead :=
  ⟨robHead_occupied h, fun _ _ => by rw [robAge_eq_zero.mpr rfl]; exact Nat.zero_le _⟩

/-! ### A register read on the path (R347, R348) -/

/-- Where no branch is mispredicted, a source register resolves to what the run reads at the instruction fetched. -/
theorem resolve_standsFor {c : Config} {start : Arch} {N : Nat} {g : Ghost} {s : State} (hI : BankInv s.cfg s.cur)
    (hF : Follows c start N g s.cur s.mem) (hbad : g.bad = none) (r : Reg) :
    (resolve s r).StandsFor (g.holds s.cur) ((trace c start g.next).read r) := by
  have hw := hF.window
  cases hd : (slotGet s.cur.reg r).dirty with
  | false =>
    rw [resolve_of_clean hI.zero hd]
    show (slotGet s.cur.reg r).value = _
    rw [hF.settled.regs, hw.read_eq hF.contents le_rfl hw.le le_rfl]
    rintro t ht - - ⟨hk, hdest, hr⟩
    have hp : s.cur.produces t r := ⟨ht.1, hk, by rw [(hF.contents.entry t ht).dest hk, hdest]⟩
    exact absurd (hd.symm.trans (hI.rat.producerMakesDirty r t hr hp)) (by decide)
  | true =>
    have hr : r ≠ 0#5 := by
      rintro rfl
      exact absurd (hd.symm.trans hI.zero.2) (by decide)
    obtain ⟨ho, hk, hdest⟩ := hI.rat.dirtyHasProducer r hd
    have hyoung := hI.rat.depIsYoungest r
    rw [resolve_of_dirty hr hd]
    generalize (slotGet s.cur.reg r).dep = t at ho hk hdest hyoung ⊢
    have ht := Ghost.right_of_path hbad ho
    have hm := hF.contents.entry t ht
    have hread : (trace c start g.next).read r = g.val t := by
      obtain ⟨hlo, hhi⟩ := hw.inRange t ht
      rw [hw.read_eq hF.contents (lo := g.idx t + 1) (by omega) hhi le_rfl, hm.regs, hdest,
        if_pos ⟨hk, setWidth_dest r, hr⟩]
      rintro u hu hlt - ⟨hku, hdestu, -⟩
      have hp : s.cur.produces u r := ⟨hu.1, hku, by rw [(hF.contents.entry u hu).dest hku, hdestu]⟩
      rcases Nat.lt_or_eq_of_le (hyoung u hd hp) with h | h
      · have := hw.increasing u t hu ht h
        omega
      · rw [robAge_inj h] at hlt
        omega
    rw [hread]
    split
    · next hready => exact hm.value hready (.inl hk)
    · exact ⟨ht, rfl⟩

end Sys2Proof.Machine
end

section
/-! PROOFS of R405 (O58), part 4: a cycle that neither flushes nor halts keeps a state on the run. -/

namespace Sys2Proof.Machine

/-! ### A cycle with its values -/

/-- `n` and `m'` are what a cycle from the bank `b` with memory `m` publishes when it does not flush: `Advance`, with
the values of the buffer's entries and of the registers, and memory. -/
structure Cycle (c : Config) (b : Bank) (m : Memory) (st : Staging) (pop : Bool) (n : Bank) (m' : Memory) : Prop where
  staging : StagingOk c b st
  advance : Advance c b st pop n
  receives : ∀ i, b.robOccupied i = true → Receives (b.Delivers c m i) (slotGet b.rob i) (slotGet n.rob i)
  tail : ∀ e, st.entry = some e → slotGet n.rob b.robTail = e
  regs : ∀ r, (slotGet n.reg r).value
    = if pop = true ∧ b.robHeadEntry.kind = .registerWrite ∧ b.robHeadEntry.dest.setWidth 5 = r ∧ r ≠ 0#5
      then b.robHeadEntry.value else (slotGet b.reg r).value
  mem : m' = if b.performs = true ∧ (b.lsqAt b.lsqHead).type.isStore = true
    then storeEffect (b.lsqAt b.lsqHead) m else m
  predicted : pop = true → b.robHeadEntry.kind = .branch →
    (b.robHeadEntry.value != 0#32) = b.robHeadEntry.predicted

/-- The queued stores after a cycle: without the one performed, with the one committed. -/
def storesAfter (b n : Bank) (pop : Bool) (l : List LsqEntry) : List LsqEntry :=
  (if b.performs then l.tail else l)
    ++ if pop && b.robHeadEntry.kind == .memoryWrite then [n.lsqAt b.robHeadEntry.dest.toNat] else []

/-- `g'` says of the bank `n` what `g` says of the bank `b` before the cycle; where `new`, the entry staged is
instruction `g.next` of the run. -/
structure Carries (c : Config) (start : Arch) (g g' : Ghost) (b n : Bank) (st : Staging) (pop new : Bool) : Prop where
  right_iff : ∀ t, g'.right n t ↔ (g.right b t ∧ ¬(pop = true ∧ t = b.robHead)) ∨ (new = true ∧ t = b.robTail)
  idx : ∀ t, b.robOccupied t = true → g'.idx t = g.idx t
  val : ∀ t, b.robOccupied t = true → g'.val t = g.val t
  done : g'.done = if pop then g.idx b.robHead + 1 else g.done
  stores : g'.stores = storesAfter b n pop g.stores
  next : g.next ≤ g'.next
  covers : ∀ j, g.next ≤ j → j < g'.next → (new = true ∧ j = g.next) ∨ Quiet c start j
  idxTail : new = true → g'.idx b.robTail = g.next ∧ g.next < g'.next
  entry : new = true → ∃ e, st.entry = some e
    ∧ EntryMeans c (trace c start g.next) (trace c start (g.next + 1)) (g'.val b.robTail) e
  station : new = true → ∀ e k r, st = .station e k r → StationMeans (g.holds b) (g'.val b.robTail) r
  queue : new = true → ∀ e q, st = .queue e q →
    QueueMeans c (g.holds b) (trace c start g.next) (trace c start (g.next + 1)) (g'.val b.robTail) q

section
variable {c : Config} {start : Arch} {N : Nat} {g g' : Ghost} {b n : Bank} {m m' : Memory} {st : Staging}
  {pop new : Bool} (hI : BankInv c b) (hCy : Cycle c b m st pop n m') (hK : Carries c start g g' b n st pop new)
  (hF : Follows c start N g b m)

/-! ### Slots that stay -/

include hCy in
/-- A head that is popped was there and ready. -/
theorem Cycle.popped (hp : pop = true) : b.robEmpty = false ∧ b.robHeadEntry.ready = true :=
  (commits_iff b).mp (hCy.advance.popOk hp).1

include hCy in
theorem Cycle.right_popped (hp : pop = true) : g.right b b.robHead := g.right_head (hCy.popped hp).1

include hK in
theorem Carries.right_old {t : Slot} (ht : g'.right n t) (hne : new = true → t ≠ b.robTail) :
    g.right b t ∧ ¬(pop = true ∧ t = b.robHead) :=
  ((hK.right_iff t).mp ht).resolve_right fun ⟨hn, htail⟩ => hne hn htail

include hK in
/-- A slot that was occupied is no new one. -/
theorem Carries.right_of_occupied {t : Slot} (ht : g'.right n t) (ho : b.robOccupied t = true) :
    g.right b t ∧ ¬(pop = true ∧ t = b.robHead) :=
  hK.right_old ht fun _ h => not_robOccupied_tail b (h ▸ ho)

include hCy hK in
/-- What a slot that is not ready will hold, it will hold after the cycle. -/
theorem Carries.holds {q : Slot} {x : Word} (h : g.holds b q x) (hr : (slotGet b.rob q).ready = false) :
    g'.holds n q x := by
  obtain ⟨hright, rfl⟩ := h
  refine ⟨(hK.right_iff q).mpr (.inl ⟨hright, ?_⟩), hK.val q hright.1⟩
  rintro ⟨hp, rfl⟩
  exact absurd (hr.symm.trans (hCy.popped hp).2) (by decide)

include hCy hK in
/-- An operand of the entry staged. -/
theorem Carries.awaits_pushed {waits : Bool} {q : Slot} {v x : Word} (h : Awaits (g.holds b) waits q v x)
    (hp : waits = true → b.Pending q) : Awaits (g'.holds n) waits q v x := by
  cases waits with
  | false => exact awaits_known.mpr (awaits_known.mp h)
  | true => exact awaits_waiting.mpr (hK.holds hCy (awaits_waiting.mp h) (hp rfl).notReady)

include hF in
/-- A ready producer holds its result. -/
theorem Follows.value_of_holds {q : Slot} {x : Word} (h : g.holds b q x)
    (hk : (slotGet b.rob q).kind = .registerWrite) (hr : (slotGet b.rob q).ready = true) :
    (slotGet b.rob q).value = x := by
  obtain ⟨hright, rfl⟩ := h
  exact (hF.contents.entry q hright).value hr (.inl hk)

include hCy hK hF in
/-- An operand over the wake-up of its entry (R198, R276). -/
theorem Carries.awaits_woken {waits : Bool} {q t : Slot} {v x : Word} (h : Awaits (g.holds b) waits q v x)
    (hw : waits = true → b.waitOk q t) :
    Awaits (g'.holds n) (waits && !(waits && (slotGet b.rob q).ready)) q
      (if waits && (slotGet b.rob q).ready then (slotGet b.rob q).value else v) x := by
  cases waits with
  | false => exact awaits_known.mpr (awaits_known.mp h)
  | true =>
    have hq := awaits_waiting.mp h
    cases hr : (slotGet b.rob q).ready with
    | false => exact awaits_waiting.mpr (hK.holds hCy hq hr)
    | true => exact awaits_known.mpr (hF.value_of_holds hq (hw rfl).2.1 hr)

/-! ### The window -/

include hCy hK hF in
theorem Carries.done_le : g.done ≤ g'.done := by
  rw [hK.done]
  split
  · next hp =>
    have := (hF.window.inRange _ (hCy.right_popped hp)).1
    omega
  · exact le_rfl

include hCy hK hF in
theorem Carries.done_le_next : g'.done ≤ g.next := by
  rw [hK.done]
  split
  · next hp => exact (hF.window.inRange _ (hCy.right_popped hp)).2
  · exact hF.window.le

include hCy hK hF in
theorem Carries.window : Window c start g' n := by
  have hA := hCy.advance
  have hst := hCy.staging
  have hdone := hK.done_le_next hCy hF
  have hold {t : Slot} (ht : g.right b t) : g'.idx t = g.idx t := hK.idx t ht.1
  constructor
  case increasing =>
    intro t u ht hu hlt
    rw [hA.robAge_lt hst ht.1 hu.1] at hlt
    rcases (hK.right_iff t).mp ht with ⟨ht, -⟩ | ⟨-, rfl⟩ <;> rcases (hK.right_iff u).mp hu with ⟨hu, -⟩ | ⟨hn, rfl⟩
    · rw [hold ht, hold hu]
      exact hF.window.increasing t u ht hu hlt
    · rw [hold ht, (hK.idxTail hn).1]
      exact (hF.window.inRange t ht).2
    · have := (robOccupied_iff_age b u).mp hu.1
      omega
    · exact absurd hlt (Nat.lt_irrefl _)
  case inRange =>
    intro t ht
    rcases (hK.right_iff t).mp ht with ⟨ht, hnp⟩ | ⟨hn, rfl⟩
    · obtain ⟨hlo, hhi⟩ := hF.window.inRange t ht
      rw [hold ht]
      refine ⟨?_, by have := hK.next; omega⟩
      rw [hK.done]
      split
      · next hp =>
        have hne : b.robAge t ≠ 0 := fun h0 => hnp ⟨hp, robAge_eq_zero.mp h0⟩
        exact hF.window.increasing _ t (hCy.right_popped hp) ht (by rw [robAge_eq_zero.mpr rfl]; omega)
      · exact hlo
    · obtain ⟨hidx, hlt⟩ := hK.idxTail hn
      omega
  case covers =>
    intro j hlo hhi
    rcases Nat.lt_or_ge j g.next with hj | hj
    · rcases hF.window.covers j ((hK.done_le hCy hF).trans hlo) hj with ⟨t, ht, rfl⟩ | hq
      · refine .inl ⟨t, (hK.right_iff t).mpr (.inl ⟨ht, ?_⟩), hold ht⟩
        rintro ⟨hp, rfl⟩
        rw [hK.done, if_pos hp] at hlo
        omega
      · exact .inr hq
    · rcases hK.covers j hj hhi with ⟨hn, rfl⟩ | hq
      · exact .inl ⟨b.robTail, (hK.right_iff _).mpr (.inr ⟨hn, rfl⟩), (hK.idxTail hn).1⟩
      · exact .inr hq
  case le => exact hdone.trans hK.next

/-! ### The station and the units -/

include hI hCy hK hF in
theorem Carries.station_live {k : Nat} (hk : k < b.rs.length) (hlive : (n.rsAt k).empty = false)
    (hright : g'.right n (n.rsAt k).rob) : StationMeans (g'.holds n) (g'.val (n.rsAt k).rob) (n.rsAt k) := by
  have hA := hCy.advance
  rcases hA.live_cases hCy.staging hk hlive with ⟨e, hpush⟩ | ⟨hne, hnh, hs⟩
  · have hp := hCy.staging.station _ _ _ hpush
    have hn : new = true := by
      rcases (hK.right_iff _).mp hright with ⟨ho, -⟩ | ⟨hn, -⟩
      · exact absurd (hp.rob ▸ ho.1) (not_robOccupied_tail b)
      · exact hn
    obtain ⟨x, y, hv, hx, hy⟩ := hK.station hn _ _ _ hpush
    rw [hp.rob]
    exact ⟨x, y, hv, hK.awaits_pushed hCy hx hp.wait1, hK.awaits_pushed hCy hy hp.wait2⟩
  · have ho := (hI.station.slotPending _ (rsAt_mem hk) hne).1
    rw [hs.rob] at hright ⊢
    obtain ⟨x, y, hv, hx, hy⟩ :=
      hF.contents.station _ (rsAt_mem hk) hne (hK.right_of_occupied hright ho).1
    have hsame : st.rsAt b k = b.rsAt k := by
      cases st with
      | station e j r =>
        refine if_neg fun hkj => ?_
        have hfree := (hCy.staging.station e j r rfl).free
        rw [← hkj, hne] at hfree
        cases hfree
      | nothing | alone e | queue e q => rfl
    have hat := hA.rsAt hk
    rw [hsame, rsSlotStep_of_live hne hnh, wakeRs_eq] at hat
    rw [hat, hK.val _ ho]
    exact ⟨x, y, hv, hK.awaits_woken hCy hF hx (hI.station.wait1 _ (rsAt_mem hk) hne),
      hK.awaits_woken hCy hF hy (hI.station.wait2 _ (rsAt_mem hk) hne)⟩

include hI hCy hK hF in
/-- A unit that has accepted the operation of an instruction of the run holds its result (R197). -/
theorem Carries.unit_busy {cl : FuClass} {u : FuInst} (hb : (n.fu.unit cl u).busy = true)
    (hright : g'.right n (n.fu.unit cl u).index) : (n.fu.unit cl u).result = g'.val (n.fu.unit cl u).index := by
  rcases hCy.advance.unit_cases hI cl u with ⟨hnb, -⟩ | ⟨k, hk, hg, -, hu⟩
  · exact absurd (hnb.symm.trans hb) (by decide)
  · have hiss := (hCy.advance.granted_unit hk hg).1
    have hne := (live_of_issuable hiss b.fu).1
    have ho := (hI.station.slotPending _ (rsAt_mem hk) hne).1
    have hready : (b.rsAt k).q1c = false ∧ (b.rsAt k).q2c = false := by
      have hbusy := hI.station.busyIff _ (rsAt_mem hk)
      simp only [RsEntry.issuable, Bool.and_eq_true, Bool.not_eq_true'] at hiss
      obtain ⟨⟨-, hnb⟩, -⟩ := hiss
      simpa [hnb] using hbusy.symm
    rw [hu] at hright ⊢
    obtain ⟨x, y, hv, hx, hy⟩ :=
      hF.contents.station _ (rsAt_mem hk) hne (hK.right_of_occupied hright ho).1
    rw [hready.1, awaits_known] at hx
    rw [hready.2, awaits_known] at hy
    subst hx hy
    exact hv.symm.trans (hK.val _ ho).symm

end

/-- An entry of the queue over a cycle, field by field (R276, R318). -/
theorem Advance.lsqAt_occupied {c : Config} {b n : Bank} {st : Staging} {pop : Bool} (hA : Advance c b st pop n)
    (hs : Shaped c b) {i : Nat} (hi : i < c.lsqSize) (ho : b.lsqOccupied c i = true) :
    let e := b.lsqAt i
    let wakesBase := e.basec && (slotGet b.rob e.baseq).ready
    let wakesValue := e.valuec && (slotGet b.rob e.valueq).ready
    n.lsqAt i = { e with
      base := if wakesBase then (slotGet b.rob e.baseq).value else e.base
      basec := e.basec && !wakesBase
      ready := (e.ready || (wakesBase && e.type.isLoad)) || (pop && b.authorises i)
      value := if wakesValue then (slotGet b.rob e.valueq).value else e.value
      valuec := e.valuec && !wakesValue } := by
  have hne : i ≠ b.lsqTail := fun h => not_lsqOccupied_tail c b (h ▸ ho)
  have hw : st.lsqAt c b i = wakeLsq b.rob (b.lsqAt i) (b.lsqAt i) := by
    cases st <;> simp [Staging.lsqAt, Bank.woken, ho, hne]
  rw [hA.lsqAt i (hs.lsqLength.symm ▸ hi), hw, wakeLsq_eq]

section
variable {c : Config} {start : Arch} {N : Nat} {g g' : Ghost} {b n : Bank} {m m' : Memory} {st : Staging}
  {pop new : Bool} (hI : BankInv c b) (hCy : Cycle c b m st pop n m') (hK : Carries c start g g' b n st pop new)
  (hF : Follows c start N g b m)

/-! ### The queue's uncommitted entries -/

include hI hCy hK hF in
theorem Carries.queue_uncommitted {i : Nat} (hi : i < c.lsqSize) (ho : n.lsqOccupied c i = true)
    (hu : (n.lsqAt i).committedStore = false) (hright : g'.right n (n.lsqAt i).rob) :
    QueueMeans c (g'.holds n) (trace c start (g'.idx (n.lsqAt i).rob)) (trace c start (g'.idx (n.lsqAt i).rob + 1))
      (g'.val (n.lsqAt i).rob) (n.lsqAt i) := by
  have hA := hCy.advance
  rcases hA.lsqOccupied_cases hI hCy.staging hi ho with ⟨-, e, hq⟩ | ⟨hb, -, hper⟩
  · have hp := hCy.staging.queue _ _ hq
    have hn : new = true := by
      rcases (hK.right_iff _).mp hright with ⟨ho, -⟩ | ⟨hn, -⟩
      · exact absurd (hp.rob ▸ ho.1) (not_robOccupied_tail b)
      · exact hn
    obtain ⟨x, y, hx, hy, hmeans⟩ := hK.queue hn _ _ hq
    rw [hp.rob, (hK.idxTail hn).1]
    exact ⟨x, y, hK.awaits_pushed hCy hx hp.waitBase, hK.awaits_pushed hCy hy hp.waitValue, hmeans⟩
  · have hbu := hper.uncommitted hu
    have hocc := uncommitted_occupied hI hi hb hbu
    have hslot := hI.queue.slots i hi hb
    rw [hper.rob] at hright ⊢
    obtain ⟨x, y, hx, hy, hmeans⟩ := hF.contents.queue i hi hb hbu (hK.right_of_occupied hright hocc).1
    rw [hK.idx _ hocc, hK.val _ hocc, hA.lsqAt_occupied hI.shaped hi hb]
    exact ⟨x, y, hK.awaits_woken hCy hF hx hslot.waitBase, hK.awaits_woken hCy hF hy hslot.waitValue, hmeans⟩

/-! ### The reorder buffer -/

include hI hF in
/-- A load that is performed finds the memory that the run has at its instruction: everything older has been performed
(R281). -/
theorem Follows.load_memory (hp : b.performs = true) (hl : (b.lsqAt b.lsqHead).type.isLoad = true)
    (hright : g.right b (b.lsqAt b.lsqHead).rob) : m = (trace c start (g.idx (b.lsqAt b.lsqHead).rob)).mem := by
  have ho := (performs_head hI hp).1
  have hhead := hI.shaped.lsqHeadIn
  have hu : (b.lsqAt b.lsqHead).committedStore = false := not_committedStore_iff.mpr (.inl hl)
  have hage := lsqAge_head hhead
  have hnone : g.stores = [] := by
    have h0 := hF.settled.stores _ hhead ho
    rw [hage, hu] at h0
    exact List.length_eq_zero_iff.mp (by simpa using h0)
  have hmem : m = (trace c start g.done).mem := by
    have := hF.settled.mem
    rwa [hnone] at this
  obtain ⟨hlo, hhi⟩ := hF.window.inRange _ hright
  rw [hmem]
  refine (hF.window.mem_eq hF.contents le_rfl hlo hhi.le fun t ht _ hlt hk => ?_).symm
  obtain ⟨hj, hjo, hjs, hjr, hjt⟩ := hI.queue.memoryWriteNamesStore t ht.1 hk
  generalize (slotGet b.rob t).dest.toNat = j at hj hjo hjs hjr hjt
  have hju : (b.lsqAt j).committedStore = false := not_committedStore_iff.mpr (.inr ⟨hjs, hjr⟩)
  have hne : b.lsqAge c j ≠ 0 := fun h0 => by
    obtain rfl := (lsqAge_inj hhead hj hhead).mp (h0.trans hage.symm)
    exact absurd (hl.symm.trans (LsqType.isStore_iff.mp hjs)) (by decide)
  have hord := hI.queue.programOrder _ hhead j hj ho hjo (by omega) hu hju
  rw [hjt] at hord
  have := hF.window.increasing _ t hright ht hord
  omega

/-- An entry that receives its result. -/
theorem EntryMeans.receives {a a' : Arch} {v w : Word} {e : RobEntry} (h : EntryMeans c a a' v e)
    (hw : e.kind = .registerWrite ∨ e.kind = .branch → w = v) :
    EntryMeans c a a' v { e with value := w, ready := true } :=
  { h with value := fun _ hk => hw hk }

include hI hF in
/-- Whatever delivers to an instruction of the run delivers its result (R313). -/
theorem Follows.delivers {t : Slot} {w : Word} (hright : g.right b t) (hw : b.Delivers c m t w)
    (hk : (slotGet b.rob t).kind = .registerWrite ∨ (slotGet b.rob t).kind = .branch) : w = g.val t := by
  cases hw with
  | store h =>
    obtain ⟨-, -, -, -, -, -, -, hkind, -⟩ := storeFinishes_store hI h
    rw [hkind] at hk
    rcases hk with hk | hk <;> cases hk
  | load h =>
    obtain ⟨hp, ho, hl, rfl, -, -⟩ := loadFinishes_load hI h
    have hhead := hI.shaped.lsqHeadIn
    obtain ⟨-, -, -, hready, -⟩ := (hI.queue.slots _ hhead ho).load hl
    obtain ⟨x, y, hx, -, hload, -⟩ := hF.contents.queue _ hhead ho (not_committedStore_iff.mpr (.inl hl)) hright
    rw [(performs_head hI hp).2.1] at hready
    rw [show (b.lsqAt b.lsqHead).basec = false by simpa using hready.symm, awaits_known] at hx
    rw [hload hl, ← hx, ← hF.load_memory hI hp hl hright]
    rfl
  | unit cl u hf hi =>
    subst hi
    exact hF.contents.unit cl u ((hI.units.busyIffFinished _ (mem_units.mpr ⟨cl, u, rfl⟩)).trans hf) hright

include hI hCy hK hF in
theorem Carries.entry_means {t : Slot} (hright : g'.right n t) :
    EntryMeans c (trace c start (g'.idx t)) (trace c start (g'.idx t + 1)) (g'.val t) (slotGet n.rob t) := by
  rcases (hK.right_iff t).mp hright with ⟨ht, -⟩ | ⟨hn, rfl⟩
  · have hm := hF.contents.entry t ht
    rw [hK.idx t ht.1, hK.val t ht.1]
    rcases hCy.receives t ht.1 with h | ⟨w, hw, h⟩
    · rw [h]
      exact hm
    · rw [h]
      exact hm.receives fun hk => hF.delivers hI ht hw hk
  · obtain ⟨e, he, hm⟩ := hK.entry hn
    rw [hCy.tail e he, (hK.idxTail hn).1]
    exact hm

include hI hCy hK hF in
theorem Carries.contents : Contents c start g' n where
  entry := fun _ ht => hK.entry_means hI hCy hF ht
  station := fun e he hlive hright => by
    obtain ⟨k, hk, rfl⟩ := mem_rs.mp he
    exact hK.station_live hI hCy hF (hCy.advance.rsLength ▸ hk) hlive hright
  unit := fun _ _ => hK.unit_busy hI hCy hF
  queue := fun _ => hK.queue_uncommitted hI hCy hF

end

/-! ### The committed stores still queued -/

/-- Every place of the ring below its size is the age of a slot. -/
theorem exists_lsqAge_eq {c : Config} {b : Bank} {k : Nat} (hh : b.lsqHead < c.lsqSize) (hk : k < c.lsqSize) :
    ∃ j < c.lsqSize, b.lsqAge c j = k := by
  rcases Nat.lt_or_ge (b.lsqHead + k) c.lsqSize with hlt | hge
  · have := lsqAge_cases hh hlt
    exact ⟨_, hlt, by omega⟩
  · have hj : b.lsqHead + k - c.lsqSize < c.lsqSize := by omega
    have := lsqAge_cases hh hj
    exact ⟨_, hj, by omega⟩

@[simp] theorem applyStores_cons (e : LsqEntry) (l : List LsqEntry) (m : Memory) :
    applyStores (e :: l) m = applyStores l (storeEffect e m) := rfl

theorem applyStores_concat (e : LsqEntry) (l : List LsqEntry) (m : Memory) :
    applyStores (l ++ [e]) m = storeEffect e (applyStores l m) := by simp [applyStores]

section
variable {c : Config} {start : Arch} {g : Ghost} {b : Bank} {m : Memory} (hI : BankInv c b)
  (hS : Settled c start g b m)
include hI hS

/-- The access performed is that of the first store listed, or of a load with no store listed. -/
theorem Settled.stores_of_performs (hp : b.performs = true) :
    ((b.lsqAt b.lsqHead).type.isStore = true ∧ g.stores = b.lsqAt b.lsqHead :: g.stores.tail)
      ∨ ((b.lsqAt b.lsqHead).type.isStore = false ∧ g.stores = []) := by
  obtain ⟨ho, hr, -⟩ := performs_head hI hp
  have h0 := hS.stores _ hI.shaped.lsqHeadIn ho
  rw [lsqAge_head hI.shaped.lsqHeadIn] at h0
  cases hst : (b.lsqAt b.lsqHead).type.isStore with
  | true =>
    rw [if_pos (committedStore_iff.mpr ⟨hst, hr⟩)] at h0
    refine .inl ⟨rfl, ?_⟩
    cases hl : g.stores with
    | nil => simp [hl] at h0
    | cons e l => simpa [hl] using h0
  | false =>
    rw [if_neg fun hc => absurd ((committedStore_iff.mp hc).1.symm.trans hst) (by decide)] at h0
    exact .inr ⟨rfl, List.length_eq_zero_iff.mp (by simpa using h0)⟩

/-- The access performed takes effect in memory and leaves the list. -/
theorem Settled.applyStores_performed :
    applyStores (if b.performs then g.stores.tail else g.stores)
      (if b.performs = true ∧ (b.lsqAt b.lsqHead).type.isStore = true then storeEffect (b.lsqAt b.lsqHead) m else m)
      = (trace c start g.done).mem := by
  rw [← hS.mem]
  cases hp : b.performs with
  | false => simp
  | true =>
    rcases hS.stores_of_performs hI hp with ⟨hst, hl⟩ | ⟨hst, hl⟩
    · rw [hl]
      simp [hst]
    · simp [hst, hl]

/-- The access performed changes only bytes that the run has stored to. -/
theorem Settled.memOld_performed {x : Word}
    (hx : readByte (if b.performs = true ∧ (b.lsqAt b.lsqHead).type.isStore = true
      then storeEffect (b.lsqAt b.lsqHead) m else m) x ≠ readByte start.mem x) : storedBefore c start g.done x := by
  split at hx
  · next hp =>
    by_cases hin : ∀ k < (b.lsqAt b.lsqHead).type.bytes, x ≠ (b.lsqAt b.lsqHead).addr + BitVec.ofNat 32 k
    · exact hS.memOld x (by rwa [storeEffect, readByte_memWrite_outside _ _ _ _ hin] at hx)
    · simp only [not_forall, not_not] at hin
      obtain ⟨k, hk, rfl⟩ := hin
      rcases hS.stores_of_performs hI hp.1 with ⟨-, hl⟩ | ⟨hns, -⟩
      · exact hS.storesOld _ (by rw [hl]; exact List.mem_cons_self ..) k hk
      · exact absurd (hns.symm.trans hp.2) (by decide)
  · exact hS.memOld x hx

end

/-- The listed stores that an access leaves stand at their slots' ages after it. -/
theorem Advance.getElem?_performed {c : Config} {b n : Bank} {st : Staging} {pop : Bool} (hA : Advance c b st pop n)
    (hs : Shaped c b) (l : List LsqEntry) {i : Nat} (hi : i < c.lsqSize)
    (hnp : b.performs = true → i ≠ b.lsqHead) :
    (if b.performs then l.tail else l)[n.lsqAge c i]? = l[b.lsqAge c i]? := by
  have hage := hA.lsqAge_eq hs hi hnp
  cases hp : b.performs with
  | false => simp [hp] at hage; simp [hage]
  | true => simp [hp] at hage; simp [← hage]

section
variable {c : Config} {start : Arch} {N : Nat} {g g' : Ghost} {b n : Bank} {m m' : Memory} {st : Staging}
  {pop new : Bool} (hI : BankInv c b) (hCy : Cycle c b m st pop n m') (hK : Carries c start g g' b n st pop new)
  (hF : Follows c start N g b m)
include hI hCy

omit hI hCy in
/-- The store that the head's commit authorises (R318). -/
theorem authorises_of_memoryWrite {i : Nat} (ha : (pop && b.robHeadEntry.kind == .memoryWrite) = true)
    (hi : b.robHeadEntry.dest.toNat = i) : pop = true ∧ b.robHeadEntry.kind = .memoryWrite ∧ b.authorises i = true := by
  simp only [Bool.and_eq_true, beq_iff_eq] at ha
  exact ⟨ha.1, ha.2, by simp [Bank.authorises, ha.2, hi]⟩

/-- That store stays in the queue, its operands known. -/
theorem Cycle.authorised_stays {i : Nat} (hp : pop = true) (ha : b.authorises i = true) :
    i < c.lsqSize ∧ b.lsqOccupied c i = true ∧ (b.lsqAt i).committedStore = false ∧ (b.lsqAt i).rob = b.robHead
      ∧ (b.lsqAt i).basec = false ∧ (b.lsqAt i).valuec = false ∧ (b.performs = true → i ≠ b.lsqHead)
      ∧ n.lsqOccupied c i = true ∧ n.lsqAt i = { b.lsqAt i with ready := true }
      ∧ (n.lsqAt i).committedStore = true := by
  obtain ⟨hi, ho, hst, hr, hrob, hb, hv⟩ := authorised_store hI (hCy.advance.popOk hp).1 ha
  have hne : b.performs = true → i ≠ b.lsqHead := by
    rintro hperf rfl
    exact absurd (hr.symm.trans (performs_head hI hperf).2.1) (by decide)
  have hat := hCy.advance.lsqAt_occupied hI.shaped hi ho
  simp only [hb, hv, hp, ha, Bool.false_and, Bool.and_self, Bool.or_true, Bool.false_eq_true, if_false] at hat
  have hn : n.lsqAt i = { b.lsqAt i with ready := true } := by
    rw [hat]
    generalize b.lsqAt i = e at hb hv
    cases e
    simp_all
  refine ⟨hi, ho, not_committedStore_iff.mpr (.inr ⟨hst, hr⟩), hrob, hb, hv, hne,
    (hCy.advance.lsq_stays hI hCy.staging hi ho hne).1, hn, ?_⟩
  rw [hn]
  exact committedStore_iff.mpr ⟨hst, rfl⟩

/-- A committed store that is not performed is as it was. -/
theorem Cycle.lsqAt_of_committedStore {i : Nat} (hi : i < c.lsqSize) (ho : b.lsqOccupied c i = true)
    (hc : (b.lsqAt i).committedStore = true) : n.lsqAt i = b.lsqAt i := by
  obtain ⟨hb, hv⟩ := (hI.queue.slots i hi ho).committed hc
  have hr := (committedStore_iff.mp hc).2
  rw [hCy.advance.lsqAt_occupied hI.shaped hi ho]
  generalize b.lsqAt i = e at hb hv hr
  cases e
  simp_all

include hF

/-- The stores listed after the access stand before the one committed now. -/
theorem Cycle.lsqAge_authorised {i : Nat} (hp : pop = true) (ha : b.authorises i = true) :
    n.lsqAge c i = (if b.performs then g.stores.tail else g.stores).length := by
  have hn := hCy.advance.bankInv hI hCy.staging
  obtain ⟨hi, ho, hu, -, -, -, hne, hno, -, hnc⟩ := hCy.authorised_stays hI hp ha
  have hget {j : Nat} (hj : j < c.lsqSize) (hnp : b.performs = true → j ≠ b.lsqHead) :=
    hCy.advance.getElem?_performed hI.shaped g.stores hj hnp
  generalize (if b.performs then g.stores.tail else g.stores) = l at hget ⊢
  have hle : l.length ≤ n.lsqAge c i := by
    rw [← List.getElem?_eq_none_iff, hget hi hne, hF.settled.stores i hi ho, hu]
    rfl
  by_contra hage
  have hlt := lsqAge_lt n hi
  obtain ⟨j, hj, hjage⟩ := exists_lsqAge_eq hn.shaped.lsqHeadIn (k := l.length) (by omega)
  have hjo : n.lsqOccupied c j = true := by
    rw [lsqOccupied_iff_age hi] at hno
    rw [lsqOccupied_iff_age hj]
    omega
  have hjc := hn.queue.committedPrefix j hj i hi hjo hno (by omega) hnc
  rcases hCy.advance.lsqOccupied_cases hI hCy.staging hj hjo with ⟨-, e, hq⟩ | ⟨hjb, hjp, hper⟩
  · exact absurd ((hCy.staging.queue _ _ hq).uncommitted.symm.trans hjc) (by decide)
  · rcases hper.committed hjc with hc | hauth
    · have hsome := hget hj fun hperf hh => hjp ⟨hperf, hh⟩
      rw [hjage, hF.settled.stores j hj hjb, hc] at hsome
      simp at hsome
    · rw [hp, Bool.true_and] at hauth
      simp only [Bank.authorises, Bool.and_eq_true, beq_iff_eq] at ha hauth
      rw [← hauth.2, ha.2] at hjage
      omega

/-- The list after a cycle ends before the first slot it does not hold. -/
theorem Cycle.storesAfter_length :
    (storesAfter b n pop g.stores).length + b.performs.toNat ≤ b.lsqAge c b.lsqTail := by
  have hle := hF.settled.storesLe
  unfold storesAfter
  cases ha : pop && b.robHeadEntry.kind == .memoryWrite with
  | true =>
    obtain ⟨hp, -, hauth⟩ := authorises_of_memoryWrite ha rfl
    obtain ⟨hi, ho, -, -, -, -, hne, -⟩ := hCy.authorised_stays hI hp hauth
    have hage := hCy.lsqAge_authorised hI hF hp hauth
    have heq := hCy.advance.lsqAge_eq hI.shaped hi hne
    rw [lsqOccupied_iff_age hi] at ho
    rw [List.length_append, ← hage]
    simp
    omega
  | false =>
    cases hperf : b.performs with
    | false => simpa using hle
    | true =>
      have hpos : 0 < b.lsqAge c b.lsqTail := by
        have := (lsqOccupied_iff_age hI.shaped.lsqHeadIn).mp (performs_head hI hperf).1
        omega
      simp
      omega

/-- The list after a cycle is that of the committed stores then queued, at their ages. -/
theorem Cycle.storesAfter_getElem? {i : Nat} (hi : i < c.lsqSize) (ho : n.lsqOccupied c i = true) :
    (storesAfter b n pop g.stores)[n.lsqAge c i]? = if (n.lsqAt i).committedStore then some (n.lsqAt i) else none := by
  have hlen := hCy.storesAfter_length hI hF
  rcases hCy.advance.lsqOccupied_cases hI hCy.staging hi ho with ⟨rfl, e, hq⟩ | ⟨hb, hnp, hper⟩
  · have hage := hCy.advance.lsqAge_eq hI.shaped hI.shaped.lsqTailIn fun hp => (performs_ne hI hp).symm
    rw [(hCy.staging.queue _ _ hq).uncommitted]
    exact List.getElem?_eq_none_iff.mpr (by omega)
  · have hget := hCy.advance.getElem?_performed hI.shaped g.stores hi fun hperf hh => hnp ⟨hperf, hh⟩
    rw [hF.settled.stores i hi hb] at hget
    cases hauth : pop && b.authorises i with
    | true =>
      rw [Bool.and_eq_true] at hauth
      obtain ⟨hp, hauth⟩ := hauth
      obtain ⟨-, -, -, -, -, -, -, -, -, hnc⟩ := hCy.authorised_stays hI hp hauth
      have hage := hCy.lsqAge_authorised hI hF hp hauth
      simp only [Bank.authorises, Bool.and_eq_true, beq_iff_eq] at hauth
      rw [hnc, hage, storesAfter, hp, hauth.1, hauth.2]
      simp
    | false =>
      have hsame : (n.lsqAt i).committedStore = (b.lsqAt i).committedStore := by
        rw [Bool.eq_iff_iff]
        exact ⟨fun h => (hper.committed h).resolve_right (by simp [hauth]), hper.committed_mono⟩
      rw [hsame]
      unfold storesAfter
      cases hc : (b.lsqAt i).committedStore with
      | true =>
        rw [hc, if_pos rfl] at hget
        obtain ⟨hlt, -⟩ := List.getElem?_eq_some_iff.mp hget
        rw [hCy.lsqAt_of_committedStore hI hi hb hc, List.getElem?_append_left hlt, hget]
        rfl
      | false =>
        rw [hc] at hget
        have hge := List.getElem?_eq_none_iff.mp hget
        rw [List.getElem?_append_right hge]
        cases ha : pop && b.robHeadEntry.kind == .memoryWrite with
        | false => simp
        | true =>
          obtain ⟨hp, -, hauth0⟩ := authorises_of_memoryWrite ha rfl
          obtain ⟨hi0, ho0, -, -, -, -, hne0, -⟩ := hCy.authorised_stays hI hp hauth0
          have hage := hCy.lsqAge_authorised hI hF hp hauth0
          have hne : n.lsqAge c i ≠ n.lsqAge c b.robHeadEntry.dest.toNat := fun he => by
            have hn := hCy.advance.shaped hI.shaped
            rw [(lsqAge_inj hn.lsqHeadIn hi hi0).mp he, hp, hauth0] at hauth
            cases hauth
          refine List.getElem?_eq_none_iff.mpr ?_
          simp
          omega

end

section
variable {c : Config} {start : Arch} {N : Nat} {g g' : Ghost} {b n : Bank} {m m' : Memory} {st : Staging}
  {pop new : Bool} (hI : BankInv c b) (hCy : Cycle c b m st pop n m') (hK : Carries c start g g' b n st pop new)
  (hF : Follows c start N g b m)
include hCy hF

/-! ### Registers and memory over a cycle -/

/-- What the popped head's instruction does to the run. -/
theorem Cycle.head_means (hp : pop = true) :
    EntryMeans c (trace c start (g.idx b.robHead)) (trace c start (g.idx b.robHead + 1)) (g.val b.robHead)
      b.robHeadEntry :=
  hF.contents.entry _ (hCy.right_popped hp)

include hK in
theorem Carries.regs (r : Reg) : (slotGet n.reg r).value = (trace c start g'.done).read r := by
  rw [hCy.regs, hK.done, hF.settled.regs]
  cases hp : pop with
  | false => simp
  | true =>
    have hm := hCy.head_means hF hp
    rw [if_pos rfl, hm.regs, hF.window.read_head hF.contents (hCy.right_popped hp)]
    by_cases hw : b.robHeadEntry.kind = .registerWrite ∧ b.robHeadEntry.dest.setWidth 5 = r ∧ r ≠ 0#5
    · rw [if_pos ⟨rfl, hw⟩, if_pos hw, hm.value (hCy.popped hp).2 (.inl hw.1)]
    · rw [if_neg fun h => hw h.2, if_neg hw]

include hI

/-- The store that a commit authorises is that of the head's instruction (R318). -/
theorem Cycle.authorised_means (hp : pop = true) (ha : b.authorises b.robHeadEntry.dest.toNat = true) :
    (trace c start (g.idx b.robHead + 1)).mem
        = storeEffect (n.lsqAt b.robHeadEntry.dest.toNat) (trace c start g.done).mem
      ∧ ∀ k < (n.lsqAt b.robHeadEntry.dest.toNat).type.bytes,
        (n.lsqAt b.robHeadEntry.dest.toNat).addr + BitVec.ofNat 32 k
          ∈ stepStores c (trace c start (g.idx b.robHead)) := by
  obtain ⟨hi, ho, hu, hrob, hb, hv, -, -, hn, hnc⟩ := hCy.authorised_stays hI hp ha
  have hright := hCy.right_popped (g := g) hp
  obtain ⟨x, y, hx, hy, -, hstore⟩ := hF.contents.queue _ hi ho hu (hrob ▸ hright)
  rw [hb, awaits_known] at hx
  rw [hv, awaits_known] at hy
  subst hx hy
  have hst := (committedStore_iff.mp hnc).1
  rw [hn] at hst ⊢
  obtain ⟨hmem, hbytes⟩ := hstore hst
  rw [hrob, hF.window.mem_head hF.contents hright] at hmem
  rw [hrob] at hbytes
  exact ⟨hmem, hbytes⟩

include hK

theorem Carries.mem : applyStores g'.stores m' = (trace c start g'.done).mem := by
  have hperf := hF.settled.applyStores_performed hI
  rw [← hCy.mem] at hperf
  rw [hK.stores, hK.done, storesAfter]
  cases ha : pop && b.robHeadEntry.kind == .memoryWrite with
  | true =>
    obtain ⟨hp, -, hauth⟩ := authorises_of_memoryWrite ha rfl
    rw [if_pos rfl, if_pos hp, applyStores_concat, hperf, (hCy.authorised_means hI hF hp hauth).1]
  | false =>
    rw [if_neg Bool.false_ne_true, List.append_nil, hperf]
    cases hp : pop with
    | false => rfl
    | true =>
      have hk : b.robHeadEntry.kind ≠ .memoryWrite := by simpa [hp] using ha
      rw [if_pos rfl, (hCy.head_means hF hp).mem hk, hF.window.mem_head hF.contents (hCy.right_popped hp)]

theorem Carries.memOld (x : Word) (hx : readByte m' x ≠ readByte start.mem x) :
    storedBefore c start g'.done x := by
  rw [hCy.mem] at hx
  exact (hF.settled.memOld_performed hI hx).mono (hK.done_le hCy hF)

theorem Carries.storesOld (e : LsqEntry) (he : e ∈ g'.stores) (k : Nat) (hk : k < e.type.bytes) :
    storedBefore c start g'.done (e.addr + BitVec.ofNat 32 k) := by
  rw [hK.stores, storesAfter, List.mem_append] at he
  rcases he with he | he
  · have hmem : e ∈ g.stores := by
      split at he
      · exact List.mem_of_mem_tail he
      · exact he
    exact (hF.settled.storesOld e hmem k hk).mono (hK.done_le hCy hF)
  · split at he
    · next ha =>
      obtain ⟨hp, -, hauth⟩ := authorises_of_memoryWrite ha rfl
      obtain rfl := List.mem_singleton.mp he
      refine ⟨g.idx b.robHead, ?_, (hCy.authorised_means hI hF hp hauth).2 k hk⟩
      rw [hK.done, if_pos hp]
      exact Nat.lt_succ_self _
    · cases he

theorem Carries.settled : Settled c start g' n m' where
  regs := hK.regs hCy hF
  stores := fun i hi ho => by
    rw [hK.stores]
    exact hCy.storesAfter_getElem? hI hF hi ho
  storesLe := by
    have hlen := hCy.storesAfter_length hI hF
    have htail := hCy.advance.lsqAge_tail hCy.staging hI.shaped (performs_ne hI)
    rw [hK.stores]
    omega
  mem := hK.mem hI hCy hF
  memOld := hK.memOld hI hCy hF
  storesOld := hK.storesOld hI hCy hF

/-- What is left to show of a cycle that keeps a state on the run is where it fetches. -/
theorem Carries.follows (hpath : OnPath c start N g' n) : Follows c start N g' n m' :=
  ⟨hK.window hCy hF, hK.contents hI hCy hF, hK.settled hI hCy hF, hpath⟩

end

end Sys2Proof.Machine
end

section
/-! PROOFS of R405 (O58), part 5: the next place in the run (`Ghost.keep`, `Ghost.push`), and that every step of the core
that neither flushes nor halts goes on along the run (`Simulates.keepsOn`). -/

namespace Sys2Proof.Machine

/-! ### What the fetch step does on the path -/

/-- The fetch step of a cycle from the bank `b` to the bank `n`, where no branch is mispredicted: it changes nothing, it
resolves the JALR waited for, it moves the pc over a quiet instruction, or it stages the next instruction of the run. -/
inductive Fetched (c : Config) (start : Arch) (N : Nat) (g : Ghost) (b : Bank) (st : Staging) (n : Bank) : Prop
  | unchanged (hst : st = .nothing) (hpc : n.pc = b.pc) (hw : n.jalrWait = b.jalrWait)
    (why : b.MayFetch → freeRsSlot b.rs = none ∨ b.lsqFull c = true)
  | resolved (hst : st = .nothing) (hs : b.fetchStopped = false) (hv : b.jalrWait.valid = true)
    (hr : (slotGet b.rob b.jalrWait.q).ready = true)
    (hpc : n.pc = jalrTarget (slotGet b.rob b.jalrWait.q).value b.jalrWait.imm) (hw : n.jalrWait.valid = false)
  | moved (hst : st = .nothing) (hs : b.fetchStopped = false) (hpc : n.pc = (trace c start (g.next + 1)).pc)
    (hw : n.jalrWait.valid = false) (hq : Quiet c start g.next) (goes : n.fetchStopped = false → g.next < N)
  | staged (e : RobEntry) (v : Word) (he : st.entry = some e)
    (hm : EntryMeans c (trace c start g.next) (trace c start (g.next + 1)) v e)
    (station : ∀ k r, st = .station e k r → StationMeans (g.holds b) v r)
    (queue : ∀ q, st = .queue e q →
      QueueMeans c (g.holds b) (trace c start g.next) (trace c start (g.next + 1)) v q)
    (resumes : e.kind ≠ .endProg → (e.kind = .branch → e.predicted = (v != 0#32)) →
      ResumesAt (g.holds b) n (trace c start (g.next + 1)))
    (goes : n.fetchStopped = false → g.next < N)

/-! ### The place in the run after a cycle -/

/-- After a cycle in which the fetch step stages no instruction of the run and moves it on by `k`. -/
def Ghost.keep (g : Ghost) (b n : Bank) (pop : Bool) (k : Nat) : Ghost :=
  { g with
    done := if pop then g.idx b.robHead + 1 else g.done
    next := g.next + k
    stores := storesAfter b n pop g.stores }

/-- After a cycle in which the fetch step stages the next instruction of the run, as the entry `e` with result `v`. -/
def Ghost.push (g : Ghost) (b n : Bank) (pop : Bool) (e : RobEntry) (v : Word) : Ghost where
  done := if pop then g.idx b.robHead + 1 else g.done
  next := g.next + 1
  idx := Function.update g.idx b.robTail g.next
  val := Function.update g.val b.robTail v
  bad := if e.kind = .branch ∧ e.predicted ≠ (v != 0#32) then some b.robTail else none
  stores := storesAfter b n pop g.stores

theorem Ghost.push_bad {g : Ghost} {b n : Bank} {pop : Bool} {e : RobEntry} {v : Word} {w : Slot}
    (h : (g.push b n pop e v).bad = some w) :
    w = b.robTail ∧ e.kind = .branch ∧ e.predicted ≠ (v != 0#32) := by
  unfold Ghost.push at h
  dsimp only at h
  split at h
  · next hk => cases h; exact ⟨rfl, hk⟩
  · cases h

section
variable {c : Config} {b n : Bank} {st : Staging} {pop : Bool} (hst : StagingOk c b st) (hA : Advance c b st pop n)
include hst hA

/-- The entry staged is the youngest. -/
theorem Advance.robAge_le_tail {e : RobEntry} (he : st.entry = some e) {t : Slot} (ht : n.robOccupied t = true) :
    n.robAge t ≤ n.robAge b.robTail := by
  rw [← not_lt, hA.robAge_lt hst (hA.tail_occupied hst he) ht, not_lt]
  rcases (hA.robOccupied_iff hst t).mp ht with ⟨hb, -⟩ | ⟨-, rfl⟩
  · exact ((robOccupied_iff_age b t).mp hb).le
  · exact le_rfl

omit hst in
/-- A JALR that still waits waits for a slot that is not ready (R152). -/
theorem Advance.jalrWait_notReady (hs : b.fetchStopped = false) (hv : n.jalrWait.valid = true) :
    (slotGet b.rob n.jalrWait.q).ready = false := by
  rcases hA.waits hv with ⟨he, hr⟩ | ⟨hp, -⟩
  · rw [he]
    exact hr hs
  · exact hp.notReady

/-- Where no branch was mispredicted, and none is but the one staged, every entry is of the run. -/
theorem Advance.right_iff_of_path {g g' : Ghost} (hbad : g.bad = none)
    (hbad' : ∀ w, g'.bad = some w → w = b.robTail ∧ ∃ e, st.entry = some e) (t : Slot) :
    g'.right n t ↔ (g.right b t ∧ ¬(pop = true ∧ t = b.robHead)) ∨ (st.entry.isSome = true ∧ t = b.robTail) := by
  have hold : g.right b t ↔ b.robOccupied t = true := ⟨And.left, Ghost.right_of_path hbad⟩
  rw [hold, Option.isSome_iff_exists, ← hA.robOccupied_iff hst]
  refine ⟨And.left, fun ho => ⟨ho, fun w hw => ?_⟩⟩
  obtain ⟨rfl, e, he⟩ := hbad' w hw
  exact hA.robAge_le_tail hst he ho

/-- Behind a mispredicted branch that stays, an entry is of the run when it was. -/
theorem Advance.right_iff_of_mispredicted {g g' : Ghost} {w : Slot} (hbad : g.bad = some w) (hbad' : g'.bad = some w)
    (ho : b.robOccupied w = true) (hw : ¬(pop = true ∧ w = b.robHead)) (t : Slot) :
    g'.right n t ↔ g.right b t ∧ ¬(pop = true ∧ t = b.robHead) := by
  have hwn : n.robOccupied w = true := (hA.robOccupied_iff hst w).mpr (.inl ⟨ho, hw⟩)
  simp only [Ghost.right, hbad, hbad', Option.some.injEq, forall_eq']
  constructor
  · rintro ⟨htn, hle⟩
    rw [← not_lt, hA.robAge_lt hst hwn htn, not_lt] at hle
    rcases (hA.robOccupied_iff hst t).mp htn with ⟨hb, hp⟩ | ⟨-, rfl⟩
    · exact ⟨⟨hb, hle⟩, hp⟩
    · have := (robOccupied_iff_age b w).mp ho
      omega
  · rintro ⟨⟨hb, hle⟩, hp⟩
    have htn : n.robOccupied t = true := (hA.robOccupied_iff hst t).mpr (.inl ⟨hb, hp⟩)
    refine ⟨htn, ?_⟩
    rw [← not_lt, hA.robAge_lt hst hwn htn, not_lt]
    exact hle

end

section
variable {c : Config} {start : Arch} {N : Nat} {g : Ghost} {b n : Bank} {m m' : Memory} {st : Staging}
  {pop : Bool} (hI : BankInv c b) (hCy : Cycle c b m st pop n m') (hF : Follows c start N g b m)
include hCy hF

/-- A mispredicted branch is flushed, not popped: the head that pops was predicted right. -/
theorem Cycle.mispredicted_stays {w : Slot} (hbad : g.bad = some w) : ¬(pop = true ∧ w = b.robHead) := by
  rintro ⟨hp, rfl⟩
  obtain ⟨-, hk, -, hne⟩ := hF.path.mispredicted _ hbad
  have hv := (hCy.head_means hF hp).value (hCy.popped hp).2 (.inr hk)
  have hpred := hCy.predicted hp hk
  rw [hv] at hpred
  exact hne hpred.symm

omit hCy hF in
/-- The ghost's step where no instruction of the run is staged. -/
theorem Ghost.carries_keep {k : Nat}
    (hright : ∀ t, (g.keep b n pop k).right n t ↔ g.right b t ∧ ¬(pop = true ∧ t = b.robHead))
    (hq : ∀ j, g.next ≤ j → j < g.next + k → Quiet c start j) :
    Carries c start g (g.keep b n pop k) b n st pop false where
  right_iff := fun t => by simpa using hright t
  idx := fun _ _ => rfl
  val := fun _ _ => rfl
  done := rfl
  stores := rfl
  next := Nat.le_add_right ..
  covers := fun j hj hk => .inr (hq j hj hk)
  idxTail := nofun
  entry := nofun
  station := nofun
  queue := nofun

/-- Behind a mispredicted branch a cycle stays behind it. -/
theorem Cycle.follows_mispredicted {w : Slot} (hbad : g.bad = some w) :
    Carries c start g (g.keep b n pop 0) b n st pop false ∧ OnPath c start N (g.keep b n pop 0) n := by
  have hstays := hCy.mispredicted_stays hF hbad
  obtain ⟨ho, hk, hidx, hpred⟩ := hF.path.mispredicted w hbad
  refine ⟨Ghost.carries_keep (hCy.advance.right_iff_of_mispredicted hCy.staging hbad hbad ho hstays)
    fun j hj hk => by omega, hF.path.le, fun hnone => ?_, fun w' hw' => ?_⟩
  · exact absurd (hbad.symm.trans hnone) nofun
  · obtain rfl : w = w' := Option.some_injective _ (hbad.symm.trans hw')
    obtain ⟨hkind, -, -, hp⟩ := (hCy.receives w ho).frame
    exact ⟨(hCy.advance.robOccupied_iff hCy.staging w).mpr (.inl ⟨ho, hstays⟩), hkind.trans hk, hidx,
      hp.trans_ne hpred⟩

omit hF in
/-- Where fetching resumes, it resumes after the cycle. -/
theorem Carries.resumes {g' : Ghost} {new : Bool} {a : Arch} (hK : Carries c start g g' b n st pop new)
    (hs : b.fetchStopped = false) (h : ResumesAt (g.holds b) n a) : ResumesAt (g'.holds n) n a := by
  refine ⟨h.1, fun hv => ?_⟩
  obtain ⟨x, hx, ha⟩ := h.2 hv
  exact ⟨x, hK.holds hCy hx (hCy.advance.jalrWait_notReady hs hv), ha⟩

/-- On the path, a cycle whose fetch step stages nothing of the run. -/
theorem Cycle.follows_kept (hbad : g.bad = none) (hst : st = .nothing) {k : Nat}
    (hq : ∀ j, g.next ≤ j → j < g.next + k → Quiet c start j)
    (hle : b.fetchStopped = false → g.next + k ≤ N) (hk : k = 0 ∨ b.fetchStopped = false)
    (hres : b.fetchStopped = false → ResumesAt (g.holds b) n (trace c start (g.next + k))) :
    Carries c start g (g.keep b n pop k) b n st pop false ∧ OnPath c start N (g.keep b n pop k) n := by
  have hright (t : Slot) : (g.keep b n pop k).right n t ↔ g.right b t ∧ ¬(pop = true ∧ t = b.robHead) := by
    have := hCy.advance.right_iff_of_path (g' := g.keep b n pop k) hCy.staging hbad
      (fun w hw => absurd (hbad.symm.trans hw) nofun) t
    exact this.trans (by simp [hst, Staging.entry])
  have hK : Carries c start g (g.keep b n pop k) b n st pop false := Ghost.carries_keep hright hq
  have hstop : n.fetchStopped = b.fetchStopped := by simp [hCy.advance.stopped, hst, Staging.isEnd, Staging.entry]
  refine ⟨hK, ?_, fun _ hs => ?_, fun w hw => absurd (hbad.symm.trans hw) nofun⟩
  · rcases hk with rfl | hs
    · exact hF.path.le
    · exact (hle hs).trans (Nat.le_succ N)
  · rw [hstop] at hs
    exact ⟨hle hs, hK.resumes hCy hs (hres hs)⟩

/-- On the path, a cycle that stages the next instruction of the run. -/
theorem Cycle.follows_pushed (hbad : g.bad = none) {e : RobEntry} {v : Word} (he : st.entry = some e)
    (hm : EntryMeans c (trace c start g.next) (trace c start (g.next + 1)) v e)
    (station : ∀ k r, st = .station e k r → StationMeans (g.holds b) v r)
    (queue : ∀ q, st = .queue e q →
      QueueMeans c (g.holds b) (trace c start g.next) (trace c start (g.next + 1)) v q)
    (resumes : e.kind ≠ .endProg → (e.kind = .branch → e.predicted = (v != 0#32)) →
      ResumesAt (g.holds b) n (trace c start (g.next + 1)))
    (goes : n.fetchStopped = false → g.next < N) :
    Carries c start g (g.push b n pop e v) b n st pop true ∧ OnPath c start N (g.push b n pop e v) n := by
  have hA := hCy.advance
  have hs : b.fetchStopped = false := (hCy.staging.room e he).notStopped
  have hle : g.next ≤ N := (hF.path.fetches hbad hs).1
  have hstop : n.fetchStopped = (e.kind == .endProg) := by simp [hA.stopped, hs, Staging.isEnd, he]
  have hentry {e' : RobEntry} (h : st.entry = some e') : e' = e := Option.some_injective _ (h.symm.trans he)
  have hne {t : Slot} (ho : b.robOccupied t = true) : t ≠ b.robTail := fun h => not_robOccupied_tail b (h ▸ ho)
  have hK : Carries c start g (g.push b n pop e v) b n st pop true := {
    right_iff := fun t => by
      have := hA.right_iff_of_path (g' := g.push b n pop e v) hCy.staging hbad
        (fun w hw => ⟨(Ghost.push_bad hw).1, e, he⟩) t
      exact this.trans (by simp [he])
    idx := fun t ho => Function.update_of_ne (hne ho) ..
    val := fun t ho => Function.update_of_ne (hne ho) ..
    done := rfl
    stores := rfl
    next := Nat.le_succ _
    covers := fun j hj hk => .inl ⟨rfl, Nat.le_antisymm (Nat.le_of_lt_succ hk) hj⟩
    idxTail := fun _ => ⟨Function.update_self .., Nat.lt_succ_self _⟩
    entry := fun _ => ⟨e, he, by simpa [Ghost.push] using hm⟩
    station := fun _ e' k r h => by
      obtain rfl := hentry (e' := e') (by rw [h]; rfl)
      simpa [Ghost.push] using station k r h
    queue := fun _ e' q h => by
      obtain rfl := hentry (e' := e') (by rw [h]; rfl)
      simpa [Ghost.push] using queue q h }
  refine ⟨hK, Nat.succ_le_succ hle, fun hnone hns => ?_, fun w hw => ?_⟩
  · have hkind : e.kind ≠ .endProg := by simpa [hstop] using hns
    have hpred : e.kind = .branch → e.predicted = (v != 0#32) := fun hb => by
      by_contra hp
      simp [Ghost.push, hb, hp] at hnone
    exact ⟨goes hns, hK.resumes hCy hs (resumes hkind hpred)⟩
  · obtain ⟨rfl, hb, hp⟩ := Ghost.push_bad hw
    rw [hCy.tail e he]
    have hns : n.fetchStopped = false := by simp [hstop, hb]
    exact ⟨hA.tail_occupied hCy.staging he, hb, by simpa [Ghost.push] using goes hns, by simpa [Ghost.push] using hp⟩

include hI

/-- On the path, every cycle that neither flushes nor halts stays on it, and it brings the fetch unit on unless it
stages nothing because a structure is full or because it resolves a JALR. -/
theorem Cycle.follows_path (hbad : g.bad = none) (hFe : Fetched c start N g b st n) :
    ∃ g' new, Carries c start g g' b n st pop new ∧ OnPath c start N g' n
      ∧ (g'.next = g.next → st = .nothing ∧
        (b.MayFetch → freeRsSlot b.rs = none ∨ b.lsqFull c = true)) := by
  have hrange (hs : b.fetchStopped = false) := hF.path.fetches hbad hs
  cases hFe with
  | unchanged hst hpc hw why =>
    obtain ⟨hK, hP⟩ := hCy.follows_kept hF hbad hst (k := 0) (by omega) (fun hs => (hrange hs).1) (.inl rfl)
      fun hs => by
        obtain ⟨-, h1, h2⟩ := hrange hs
        exact ⟨fun hv => hpc.trans (h1 (hw ▸ hv)), fun hv => by rw [hw] at hv ⊢; exact h2 hv⟩
    exact ⟨_, _, hK, hP, fun _ => ⟨hst, why⟩⟩
  | resolved hst hs hv hr hpc hw =>
    obtain ⟨hK, hP⟩ := hCy.follows_kept hF hbad hst (k := 0) (by omega) (fun hs => (hrange hs).1) (.inl rfl)
      fun hs => by
        obtain ⟨x, hx, ha⟩ := (hrange hs).2.2 hv
        have hk := (hI.fetch.jalrWaits hv).2
        refine ⟨fun _ => ?_, fun hv' => absurd (hw.symm.trans hv') (by decide)⟩
        rw [hpc, hF.value_of_holds hx hk hr]
        exact ha
    exact ⟨_, _, hK, hP, fun _ => ⟨hst, fun hf => absurd (hf.notWaiting.symm.trans hv) (by decide)⟩⟩
  | moved hst hs hpc hw hq goes =>
    have hstop : n.fetchStopped = false := by simp [hCy.advance.stopped, hst, Staging.isEnd, Staging.entry, hs]
    obtain ⟨hK, hP⟩ := hCy.follows_kept hF hbad hst (k := 1)
      (fun j hj hk => by obtain rfl : j = g.next := by omega
                         exact hq)
      (fun _ => goes hstop) (.inr hs)
      fun _ => ⟨fun _ => hpc, fun hv => absurd (hw.symm.trans hv) (by decide)⟩
    exact ⟨_, _, hK, hP, fun h => absurd h (Nat.succ_ne_self _)⟩
  | staged e v he hm station queue resumes goes =>
    obtain ⟨hK, hP⟩ := hCy.follows_pushed hF hbad he hm station queue resumes goes
    exact ⟨_, _, hK, hP, fun h => absurd h (Nat.succ_ne_self _)⟩

end

/-! ### What a cycle computes before its commit step -/

/-- The LSQ and fetch steps of a cycle from `s` lead to `s1` and `s2`, and the fetch step stages `st` (R130). -/
structure Computes (s : State) (st : Staging) (s1 s2 : State) : Prop where
  queue : lsqStep (beginCycle s) = .next s1
  fetch : fetchStep s1 = .next s2
  staging : StagingOk s.cfg s.cur st
  staged : Staged st s1 s2

theorem computes_of_step {s t : State} (hr : RatOk s.cur) (h : step s = .next t) :
    ∃ st s1 s2 v, Computes s st s1 s2 ∧ commitStep (rsStep s2) = .next v ∧ t = endCycle v := by
  obtain ⟨-, s1, s2, v, h1, h2, h3, rfl⟩ := step_cases h
  obtain ⟨hcur, -, hcfg, -⟩ := step_units_cur h1 h2
  obtain ⟨st, hst, hs⟩ := fetchStep_staged (hcur ▸ hr) h2
  rw [hcur, hcfg] at hst
  exact ⟨st, s1, s2, v, ⟨h1, h2, hst, hs⟩, h3, rfl⟩

section
variable {s s1 s2 v : State} {st : Staging} (h : Computes s st s1 s2)
include h

theorem Computes.before : ComputedBeforeCommit s (rsStep s2) := ⟨s1, s2, h.queue, h.fetch, rfl⟩

theorem Computes.mem : s1.mem = if s.cur.performs = true ∧ (s.cur.lsqAt s.cur.lsqHead).type.isStore = true
    then storeEffect (s.cur.lsqAt s.cur.lsqHead) s.mem else s.mem :=
  lsqStep_mem (s := beginCycle s) h.queue

/-- The bank staged before the commit step is an `Advance` for the staging given (`computed_advance` knows only that
there is one, and a run needs that of its next instruction). -/
theorem Computes.advance : Advance s.cfg s.cur st false (rsStep s2).nxt := by
  obtain ⟨c1, c2, g1, g2, -⟩ := step_units_cur h.queue h.fetch
  have hq := lsqStep_stepped h.queue
  have f1 := (lsqStep_frame h.queue).nxt
  have f2 := fetchStep_frame h.fetch
  have hwait := fetchStep_wait h.fetch
  have hs := h.staged
  have robTail := hs.robTail
  have reg := hs.reg
  have rs := hs.rs
  have lsqTail := hs.lsqTail
  have stopped := hs.stopped
  have waits := hs.waits
  have rob := hs.rob
  have lsq := hs.lsq
  rw [c1] at rob robTail reg lsq lsqTail hwait waits
  rw [show s1.nxt.robTail = s.cur.robTail from congrArg (·.robTail) f1] at robTail
  rw [show s1.nxt.reg = s.cur.reg from congrArg (·.reg) f1] at reg
  rw [show s1.nxt.rs = s.cur.rs from congrArg (·.rs) f1] at rs
  rw [show s1.nxt.lsqTail = s.cur.lsqTail from congrArg (·.lsqTail) f1, g1] at lsqTail
  rw [show s1.nxt.fetchStopped = s.cur.fetchStopped from congrArg (·.fetchStopped) f1] at stopped
  rw [show s1.nxt.jalrWait = s.cur.jalrWait from congrArg (·.jalrWait) f1] at waits
  exact {
    popOk := nofun
    robHead := f2.robHead.trans (congrArg (·.robHead) f1)
    robTail := robTail
    rob := ⟨s1.nxt.rob, hq.rob, by
      have hf := finishing_harvestRob s2.cur s2.nxt.rob
      rw [c2, rob] at hf
      exact (congrArg (Finishing _ _) (by simp [rsStep, c2, rob])).mpr hf⟩
    regZero := by
      show slotGet s2.nxt.reg 0#5 = _
      rw [reg, Staging.reg_zero]
    regNamed := fun i hi hn => by
      show (slotGet s2.nxt.reg i).dirty = true ∧ (slotGet s2.nxt.reg i).dep = _
      simp [reg, Staging.reg_of_names hi hn]
    regKept := fun i hi hn => by
      show (slotGet s2.nxt.reg i).dep = _ ∧ ((slotGet s2.nxt.reg i).dirty = true ↔ _)
      simp [reg, Staging.reg_of_not_names h.staging hn]
    stopped := stopped
    waits := fun hv => (waits hv).imp_left fun he =>
      ⟨he, fun hns => hwait hns ((congrArg (·.valid) he).symm.trans hv) hv⟩
    rs := by simp [rsStep, c2, rs, Bank.grant]
    fu := by simp [rsStep, c2, f2.fu, show s1.nxt.fu = s.cur.fu from congrArg (·.fu) f1]
    lsqLength := by
      show s2.nxt.lsq.length = _
      rw [lsq, Staging.length_lsq, hq.lsqLength]
    lsqAt := fun i hi => by
      show s2.nxt.lsqAt i = _
      simp [Staging.lsqAt_of_stepped hq lsq hi]
    lsqHead := f2.lsqHead.trans hq.lsqHead
    lsqTail := lsqTail
    inflight := fun hi => hq.inflight (f2.lsqInflight ▸ hi)
    count := fun hc => f2.lsqCount ▸ hq.count hc }

/-! ### The values of the buffer over a cycle -/

/-- The slots but the one the fetch step stages into. -/
theorem Computes.rob_of_ne {i : Slot} (hi : i ≠ s.cur.robTail) : slotGet s2.nxt.rob i = slotGet s1.nxt.rob i := by
  obtain ⟨hcur, -⟩ := step_units_cur h.queue h.fetch
  rw [h.staged.rob, hcur, Staging.rob]
  split
  · exact slotGet_slotSet_ne _ _ hi
  · rfl

theorem Computes.receives {i : Slot} (hi : s.cur.robOccupied i = true) :
    Receives (s.cur.Delivers s.cfg s.mem i) (slotGet s.cur.rob i) (slotGet (rsStep s2).nxt.rob i) := by
  obtain ⟨-, hcur2, -⟩ := step_units_cur h.queue h.fetch
  have hne : i ≠ s.cur.robTail := fun he => not_robOccupied_tail s.cur (he ▸ hi)
  show Receives _ _ (slotGet (harvestRob s2.cur.fu s2.nxt.rob) i)
  rw [hcur2]
  refine Receives.of_harvestRob (h.rob_of_ne hne ▸ lsqStep_receives h.queue i) fun f hf hfin hidx => ?_
  obtain ⟨cl, u, rfl⟩ := mem_units.mp hf
  exact .unit cl u hfin hidx

/-- The entry staged stands at the tail as it is: no finished unit names the free slot. -/
theorem Computes.tail (hI : BankInv s.cfg s.cur) {e : RobEntry} (he : st.entry = some e) :
    slotGet (rsStep s2).nxt.rob s.cur.robTail = e := by
  obtain ⟨hcur, hcur2, -⟩ := step_units_cur h.queue h.fetch
  show slotGet (harvestRob s2.cur.fu s2.nxt.rob) _ = _
  have hs2 : slotGet s2.nxt.rob s.cur.robTail = e := by
    rw [h.staged.rob, hcur, Staging.rob, he]
    exact slotGet_slotSet_same ..
  have hrec : Receives (fun _ => False) e (slotGet (harvestRob s2.cur.fu s2.nxt.rob) s.cur.robTail) := by
    refine Receives.of_harvestRob (.inl hs2) fun f hf hfin hidx => ?_
    rw [hcur2] at hf
    exact absurd (finishes_occupied hI (.inl ⟨f, hf, hfin, hidx⟩)) (not_robOccupied_tail s.cur)
  rcases hrec with hrec | ⟨v, hv, -⟩
  · exact hrec
  · exact hv.elim

end

/-! ### What the fetch step of a cycle finds on the path -/

theorem fetchStep_of_mayFetch {s t : State} (hf : s.cur.MayFetch) (h : fetchStep s = .next t) :
    ∃ i, decode s.cfg.endWord (fetchWord s) = .ok i ∧ exec i s = .next t := by
  simp only [fetchStep, hf.notStopped, hf.notWaiting, hf.notFull, Bool.false_eq_true, if_false, fetchDispatch] at h
  split at h
  · cases h
  · split at h
    · next i hi => exact ⟨i, hi, h⟩
    · cases h

/-- A fetch step that dispatches nothing changes nothing, or gives the JALR waited for its target (R150, R152). -/
theorem fetchStep_of_not_mayFetch {s t : State} (hf : ¬s.cur.MayFetch) (h : fetchStep s = .next t) :
    t = s ∨ (s.cur.fetchStopped = false ∧ s.cur.jalrWait.valid = true
      ∧ (slotGet s.cur.rob s.cur.jalrWait.q).ready = true
      ∧ t = { s with
        nxt.pc := jalrTarget (slotGet s.cur.rob s.cur.jalrWait.q).value s.cur.jalrWait.imm
        nxt.jalrWait := { s.nxt.jalrWait with valid := false } }) := by
  rcases fetchStep_cases h with rfl | ⟨hs, hv, rfl⟩ | ⟨hs, hv, hn, -⟩
  · exact .inl rfl
  · unfold resolveJalr
    dsimp only
    split
    · next hr => exact .inr ⟨hs, hv, hr, rfl⟩
    · exact .inl rfl
  · exact absurd ⟨hn, hs, hv⟩ hf

/-- END stops the fetch unit (R173). -/
theorem execEnd_stops {s t : State} (hf : s.cur.MayFetch) (h : exec .endProg s = .next t) :
    t.nxt.fetchStopped = true := by
  replace h : execEnd s = .next t := h
  rw [execEnd, robAdd_of_not_full hf.notFull] at h
  cases h
  rfl

theorem resolve_congr {s t : State} (h : t.cur = s.cur) (r : Reg) : resolve t r = resolve s r := by
  unfold resolve
  rw [h]

theorem ResumesAt.congr {W : Slot → Word → Prop} {b n : Bank} {a : Arch} (hpc : n.pc = b.pc)
    (hw : n.jalrWait = b.jalrWait) (h : ResumesAt W b a) : ResumesAt W n a := by
  unfold ResumesAt
  rw [hpc, hw]
  exact h

section
variable {start : Arch} {N : Nat} {g : Ghost} {s s1 s2 : State} {n : Bank}
  (hT : Terminates s.cfg start N) (hI : BankInv s.cfg s.cur) (hF : Follows s.cfg start N g s.cur s.mem)
  (hbad : g.bad = none) (h1 : lsqStep (beginCycle s) = .next s1) (h2 : fetchStep s1 = .next s2)
  (hpc : n.pc = s2.nxt.pc) (hw : n.jalrWait = s2.nxt.jalrWait) (hstop : n.fetchStopped = s2.nxt.fetchStopped)
include hT hI hF hbad h1 h2 hpc hw hstop

/-- Where the fetch unit dispatches, it dispatches the next instruction of the run (R150, R405). -/
theorem fetched_of_mayFetch (hf : s.cur.MayFetch) :
    ∃ st, Computes s st s1 s2 ∧ Fetched s.cfg start N g s.cur st n := by
  obtain ⟨hcur, -, hcfg, -⟩ := step_units_cur h1 h2
  have hnxt := (lsqStep_frame h1).nxt
  have hpc1 : s1.nxt.pc = s.cur.pc := congrArg (·.pc) hnxt
  have hw1 : s1.nxt.jalrWait = s.cur.jalrWait := congrArg (·.jalrWait) hnxt
  obtain ⟨hle, hresume, -⟩ := hF.path.fetches hbad hf.notStopped
  have hat := hresume hf.notWaiting
  obtain ⟨i, hi, hexec⟩ := fetchStep_of_mayFetch (hcur ▸ hf) h2
  obtain ⟨j, hj, hlt, heff⟩ := hT.instr hle
  have hword : fetchWord s1 = memRead4 (trace s.cfg start g.next).mem (trace s.cfg start g.next).pc := by
    rw [fetchWord, hcur, hat]
    refine hT.fetch_eq hle fun x hx => ?_
    rw [lsqStep_mem (s := beginCycle s) h1] at hx
    exact (hF.settled.memOld_performed hI hx).mono hF.window.le
  obtain rfl : i = j := by
    rw [hword, hcfg, hj] at hi
    exact Except.ok.inj hi.symm
  have hgoes : n.fetchStopped = false → g.next < N := fun hns => hlt fun he => by
    subst he
    rw [hstop, execEnd_stops (hcur ▸ hf) hexec] at hns
    cases hns
  have hW (r : Reg) : (resolve s1 r).StandsFor (g.holds s.cur) ((trace s.cfg start g.next).read r) := by
    rw [resolve_congr hcur]
    exact resolve_standsFor hI hF hbad r
  have hdisp := exec_dispatched (hcur ▸ hf) ((congrArg (·.valid) hw1).trans hf.notWaiting) (hcur ▸ hI.rat) hW
    (hcfg ▸ hj) (hcur ▸ hat) hexec
  rw [hcfg, ← heff] at hdisp
  cases hdisp with
  | stalled ht why =>
    subst ht
    rw [hcur, hcfg] at why
    exact ⟨.nothing, ⟨h1, h2, .nothing .., .refl _⟩,
      .unchanged rfl (hpc.trans hpc1) (hw.trans hw1) fun _ => why⟩
  | moved ht hx hm =>
    subst ht
    refine ⟨.nothing, ⟨h1, h2, .nothing .., .of_nxt rfl fun _ => .inl rfl⟩,
      .moved rfl hf.notStopped hpc ?_ ⟨hx, hm⟩ hgoes⟩
    exact (congrArg (·.valid) (hw.trans hw1)).trans hf.notWaiting
  | staged st e v hst hs he hm station queue resumes =>
    rw [hcur, hcfg] at hst
    rw [hcfg] at hm queue
    exact ⟨st, ⟨h1, h2, hst, hs⟩, .staged e v he hm station queue
      (fun hk hp => (resumes hk hp).congr hpc hw) hgoes⟩

/-- On the path the fetch step does what the run needs. -/
theorem fetched_of_path : ∃ st, Computes s st s1 s2 ∧ Fetched s.cfg start N g s.cur st n := by
  by_cases hf : s.cur.MayFetch
  · exact fetched_of_mayFetch hT hI hF hbad h1 h2 hpc hw hstop hf
  obtain ⟨hcur, -⟩ := step_units_cur h1 h2
  have hnxt := (lsqStep_frame h1).nxt
  have hpc1 : s1.nxt.pc = s.cur.pc := congrArg (·.pc) hnxt
  have hw1 : s1.nxt.jalrWait = s.cur.jalrWait := congrArg (·.jalrWait) hnxt
  rcases fetchStep_of_not_mayFetch (hcur.symm ▸ hf) h2 with rfl | ⟨hs, hv, hr, rfl⟩
  · exact ⟨.nothing, ⟨h1, h2, .nothing .., .refl _⟩,
      .unchanged rfl (hpc.trans hpc1) (hw.trans hw1) fun h => absurd h hf⟩
  · refine ⟨.nothing, ⟨h1, h2, .nothing .., .of_nxt rfl nofun⟩, ?_⟩
    rw [hcur] at hs hv hr hpc
    exact .resolved rfl hs hv hr hpc (congrArg (·.valid) hw)

end

/-! ### A step that neither flushes nor halts -/

/-- The head's commit finds a misprediction (R319). -/
def Bank.mispredicts (b : Bank) : Prop :=
  b.commits = true ∧ b.robHeadEntry.kind = .branch ∧ (b.robHeadEntry.value != 0#32) ≠ b.robHeadEntry.predicted

/-- `n` has the fields of the fetch unit and of the memory pipeline that `m` has. -/
structure SameUnits (m n : Bank) : Prop where
  pc : n.pc = m.pc
  jalrWait : n.jalrWait = m.jalrWait
  fetchStopped : n.fetchStopped = m.fetchStopped
  lsqInflight : n.lsqInflight = m.lsqInflight
  lsqCount : n.lsqCount = m.lsqCount

theorem SameUnits.refl (m : Bank) : SameUnits m m := ⟨rfl, rfl, rfl, rfl, rfl⟩

/-- A commit that neither flushes nor halts advances the bank, and leaves the fetch unit and the pipeline alone. -/
theorem commitStep_advances {c : Config} {s v : State} {st : Staging} (hA : Advance c s.cur st false s.nxt)
    (hv : commitStep s = .next v) (hrun : v.status = .running) (hm : ¬s.cur.mispredicts) :
    Advance c s.cur st s.cur.commits v.nxt ∧ SameUnits s.nxt v.nxt := by
  cases commitStep_outcome hv with
  | idle hc => exact ⟨hc ▸ hA, .refl _⟩
  | register hc hk =>
    refine ⟨hc ▸ commitRegister_advance hA hc hk rfl, ?_⟩
    rw [robPop_nxt, regWrite_nxt]
    constructor <;> rfl
  | store hc hk hi hu =>
    exact ⟨hc ▸ commitStore_advance hA hc hk (commitStore_of_uncommitted hi hu), rfl, rfl, rfl, rfl, rfl⟩
  | branch hc hk ht =>
    have hP := robPop_advance (predUpdate_advance hA s.cur.robHeadEntry.baddr (s.cur.robHeadEntry.value != 0#32))
      (by rwa [predUpdate_cur]) (by rwa [predUpdate_cur])
    rw [predUpdate_cur, ht] at hP
    refine ⟨hc ▸ hP, ?_⟩
    rw [robPop_nxt, predUpdate_nxt]
    constructor <;> rfl
  | flush hc hk ht hp => exact absurd ⟨hc, hk, ht ▸ hp⟩ hm
  | halt => cases hrun

/-! ### The memory pipeline over a cycle (R280) -/

/-- What a cycle makes of the memory pipeline: it counts down, performs the access, starts one for a ready head, or
waits for one. -/
inductive PipelineStep (b n : Bank) : Prop
  | counts (hi : b.lsqInflight = true) (hc : b.lsqCount ≠ 0#2) (hi' : n.lsqInflight = true)
    (hc' : n.lsqCount = b.lsqCount - 1#2)
  | performs (hp : b.performs = true) (hi' : n.lsqInflight = false)
  | starts (hi : b.lsqInflight = false) (hi' : n.lsqInflight = true) (hc' : n.lsqCount = memCountdown)
  | waits (hi : b.lsqInflight = false) (hw : b.lsqEmpty = true ∨ (b.lsqAt b.lsqHead).ready = false)
    (hi' : n.lsqInflight = false)

theorem Computes.pipeline {s s1 s2 : State} {st : Staging} {n : Bank} (h : Computes s st s1 s2)
    (hn : SameUnits s2.nxt n) : PipelineStep s.cur n := by
  have f := fetchStep_frame h.fetch
  have hi' := hn.lsqInflight.trans f.lsqInflight
  have hc' := hn.lsqCount.trans f.lsqCount
  rcases memPipeline_cases h.queue with ⟨hi, hc, rfl⟩ | ⟨hi, hc, -, rfl⟩ | ⟨hi, -, -, rfl⟩ | ⟨hi, hw, rfl⟩
  · exact .counts hi hc (hi'.trans hi) hc'
  · exact .performs ((performs_iff _).mpr ⟨hi, hc⟩) hi'
  · exact .starts hi hi' hc'
  · exact .waits hi hw (hi'.trans hi)

section
variable {s s1 s2 t v : State} {st : Staging} (h : Computes s st s1 s2)
  (hv : commitStep (rsStep s2) = .next v) (ht : t = endCycle v)
include h hv ht

theorem Computes.step_eq (hs : s.status = .running) : step s = .next t := by
  subst ht
  exact step_of_units hs h.queue h.fetch hv

/-- What a step publishes that neither flushes nor halts. -/
theorem Computes.cycle (hI : BankInv s.cfg s.cur) (hs : s.status = .running) (hrun : t.status = .running)
    (hm : ¬s.cur.mispredicts) :
    Cycle s.cfg s.cur s.mem st s.cur.commits t.cur t.mem ∧ SameUnits s2.nxt t.cur := by
  have hstep := h.step_eq hv ht hs
  have hcur : (rsStep s2).cur = s.cur := h.before.cur
  have hvrun : v.status = .running := by rw [← endCycle_status, ← ht]; exact hrun
  obtain ⟨hA, hu⟩ := commitStep_advances (hcur.symm ▸ h.advance) hv hvrun (hcur.symm ▸ hm)
  rw [hcur] at hA
  have htcur : t.cur = { v.nxt with clock := v.cur.clock + 1 } := by
    rw [ht, endCycle_of_running hvrun, publish_cur]
  have hrob : t.cur.rob = (rsStep s2).nxt.rob := by rw [htcur]; exact commitStep_rob hv
  obtain ⟨s1', h1', hmem⟩ := step_mem hstep
  refine ⟨?_, by rw [htcur]; exact { hu with }⟩
  exact {
    staging := h.staging
    advance := by rw [htcur]; exact { hA with }
    receives := fun i hi => hrob ▸ h.receives hi
    tail := fun e he => hrob ▸ h.tail hI he
    regs := registersChangeOnlyByCommit s t hstep
    mem := hmem.trans (lsqStep_mem (s := beginCycle s) h1')
    predicted := fun hc hk => by
      by_contra hp
      exact hm ⟨hc, hk, hp⟩ }

end

/-- A running state of the core that follows the run. -/
structure Simulates (start : Arch) (N : Nat) (g : Ghost) (s : State) : Prop where
  inv : Inv s
  running : s.status = .running
  follows : Follows s.cfg start N g s.cur s.mem

/-- What a step that neither flushes nor halts brings. -/
structure KeepsOn (start : Arch) (N : Nat) (g g' : Ghost) (s t : State) : Prop where
  simulates : Simulates start N g' t
  cfg : t.cfg = s.cfg
  done : g'.done = if s.cur.commits then g.idx s.cur.robHead + 1 else g.done
  next : g.next ≤ g'.next
  pipeline : PipelineStep s.cur t.cur
  advance : ∃ st, StagingOk s.cfg s.cur st ∧ Advance s.cfg s.cur st s.cur.commits t.cur
    ∧ (g'.next = g.next → g.bad = none →
      st.entry = none ∧ (s.cur.MayFetch → freeRsSlot s.cur.rs = none ∨ s.cur.lsqFull s.cfg = true))

/-- A step that neither flushes nor halts goes on along the run. -/
theorem Simulates.keepsOn {start : Arch} {N : Nat} {g : Ghost} {s t : State} (hT : Terminates s.cfg start N)
    (hS : Simulates start N g s) (h : step s = .next t) (hrun : t.status = .running) (hm : ¬s.cur.mispredicts) :
    ∃ g', KeepsOn start N g g' s t := by
  have hI := hS.inv.bank
  have hcfg := step_cfg h
  obtain ⟨st, s1, s2, v, hC, hv, ht⟩ := computes_of_step hI.rat h
  cases hbad : g.bad with
  | some w =>
    obtain ⟨hCy, hu⟩ := hC.cycle hv ht hI hS.running hrun hm
    obtain ⟨hK, hP⟩ := hCy.follows_mispredicted hS.follows hbad
    exact ⟨_, ⟨stepKeepsInv s t hS.inv h, hrun, hcfg ▸ hK.follows hI hCy hS.follows hP⟩, hcfg, hK.done, hK.next,
      hC.pipeline hu,
      st, hC.staging, hCy.advance, fun _ hn => absurd (hbad.symm.trans hn) nofun⟩
  | none =>
    obtain ⟨-, hu⟩ := hC.cycle hv ht hI hS.running hrun hm
    obtain ⟨st', hC', hFe⟩ := fetched_of_path hT hI hS.follows hbad hC.queue hC.fetch hu.pc hu.jalrWait
      hu.fetchStopped
    obtain ⟨hCy, -⟩ := hC'.cycle hv ht hI hS.running hrun hm
    obtain ⟨g', new, hK, hP, hstays⟩ := hCy.follows_path hI hS.follows hbad hFe
    refine ⟨g', ⟨stepKeepsInv s t hS.inv h, hrun, hcfg ▸ hK.follows hI hCy hS.follows hP⟩, hcfg, hK.done, hK.next,
      hC.pipeline hu,
      st', hC'.staging, hCy.advance, fun hnext _ => ?_⟩
    obtain ⟨hst, why⟩ := hstays hnext
    exact ⟨by rw [hst]; rfl, why⟩

end Sys2Proof.Machine
end

section
/-! PROOFS of R405 (O58), part 6: the flush of a mispredicted branch puts the core back on the run
(`Simulates.flushes`), the halt finds the run at its end (`Simulates.halts`), and a core after reset starts it
(`start_simulates`). -/

namespace Sys2Proof.Machine

/-! ### The flush of a mispredicted branch (R322) -/

/-- After the flush of the mispredicted branch at the head: fetching goes on behind it. -/
def Ghost.flushed (g : Ghost) (b : Bank) : Ghost :=
  { g with
    done := g.idx b.robHead + 1
    next := g.idx b.robHead + 1
    bad := none
    stores := if b.performs then g.stores.tail else g.stores }

/-- With an empty buffer no slot holds an instruction. -/
theorem not_right_of_empty {g : Ghost} {n : Bank} (h : n.robHead = n.robTail) (t : Slot) : ¬g.right n t :=
  fun ht => not_robOccupied_of_empty h t ht.1

section
variable {c : Config} {start : Arch} {N : Nat} {g : Ghost} {b : Bank} {m : Memory} (hI : BankInv c b)
  (hF : Follows c start N g b m)
include hI hF

/-- A branch at the head is not the run's last instruction, which is END. -/
theorem Follows.branch_lt (hne : b.robEmpty = false) (hk : b.robHeadEntry.kind = .branch) :
    g.idx b.robHead < N := by
  have hhead := g.right_head hne
  have hle := hF.path.le
  cases hbad : g.bad with
  | some w =>
    obtain ⟨ho, -, hlt, -⟩ := hF.path.mispredicted w hbad
    have hw : g.right b w := ⟨ho, fun w' hw' => (Option.some_injective _ (hbad.symm.trans hw')) ▸ le_rfl⟩
    have := hF.window.idx_head_le hhead hw
    omega
  | none =>
    obtain ⟨-, hhi⟩ := hF.window.inRange _ hhead
    cases hs : b.fetchStopped with
    | false =>
      have := (hF.path.fetches hbad hs).1
      omega
    | true =>
      obtain ⟨-, hend⟩ := hI.fetch.stoppedHasEnd hs
      have hlast : g.right b (b.robTail - 1#5) := Ghost.right_of_path hbad (robTail_sub_one_occupied hne)
      have hage : b.robAge (b.robTail - 1#5) ≠ 0 := fun h0 => by
        rw [robAge_eq_zero.mp h0] at hend
        cases hk.symm.trans hend
      have hlt := hF.window.increasing _ _ hhead hlast (by rw [robAge_eq_zero.mpr rfl]; omega)
      have := (hF.window.inRange _ hlast).2
      omega

/-- A list of committed stores ends in the queue. -/
theorem Follows.last_store {k : Nat} (hl : g.stores.length = k + 1) :
    ∃ i < c.lsqSize, b.lsqAge c i = k ∧ b.lsqOccupied c i = true ∧ (b.lsqAt i).committedStore = true := by
  have hle := hF.settled.storesLe
  have hlt := lsqAge_lt b hI.shaped.lsqTailIn
  obtain ⟨i, hi, hage⟩ := exists_lsqAge_eq (b := b) hI.shaped.lsqHeadIn (k := k) (by omega)
  have ho : b.lsqOccupied c i = true := by
    rw [lsqOccupied_iff_age hi]
    omega
  refine ⟨i, hi, hage, ho, ?_⟩
  by_contra hu
  have h := hF.settled.stores i hi ho
  rw [hage, if_neg hu, List.getElem?_eq_none_iff] at h
  omega

end

section
variable {start : Arch} {N : Nat} {g : Ghost} {s t : State} (hS : Simulates start N g s) (h : step s = .next t)
  (hm : s.cur.mispredicts)
include hS h hm

theorem Simulates.flushed_settled : Settled s.cfg start (g.flushed s.cur) t.cur t.mem := by
  obtain ⟨hc, hk, hp⟩ := hm
  have hI := hS.inv.bank
  have hF := hS.follows
  obtain ⟨hne, hready⟩ := (commits_iff _).mp hc
  have hhead := g.right_head hne
  have hmeans := hF.contents.entry _ hhead
  have hkind : (slotGet s.cur.rob s.cur.robHead).kind = .branch := hk
  obtain ⟨-, -, -, -, -, -, -, hreg, hocc, hat, -⟩ := mispredictionFlush s t hS.inv h hc hk hp
  obtain ⟨st, m, hst, hA, hcur⟩ := step_flushes hI.rat h hc hk hp
  have hFl := (flushBank_flushed s.cfg s.cur.robHead s.cur.robHeadEntry.correctTarget m).clock (s.cur.clock + 1)
  rw [← hcur] at hFl
  have hage (i : Nat) : t.cur.lsqAge s.cfg i = m.lsqAge s.cfg i := by rw [Bank.lsqAge, Bank.lsqAge, hFl.lsqHead]
  obtain ⟨s1, h1, hmem⟩ := step_mem h
  rw [lsqStep_mem (s := beginCycle s) h1] at hmem
  have hdone : g.done ≤ (g.flushed s.cur).done := (hF.window.inRange _ hhead).1.trans (Nat.le_succ _)
  constructor
  case regs =>
    intro r
    rw [(hreg r).2, hF.settled.regs, ← hF.window.read_head hF.contents hhead]
    exact ((hmeans.regs r).trans (if_neg (by simp [hkind]))).symm
  case stores =>
    intro i hi ho
    obtain ⟨hb, hcom, hnp⟩ := (hocc i hi).mp ho
    have hget := hA.getElem?_performed hI.shaped g.stores hi fun hperf hh => hnp ⟨hh, hperf⟩
    rw [hat i hi ho, hage]
    exact hget.trans (hF.settled.stores i hi hb)
  case storesLe =>
    have hlen : (g.flushed s.cur).stores.length = g.stores.length - s.cur.performs.toNat := by
      unfold Ghost.flushed
      cases s.cur.performs <;> simp
    rcases Nat.eq_zero_or_pos (g.flushed s.cur).stores.length with h0 | hpos
    · rw [h0]
      exact Nat.zero_le _
    · obtain ⟨i, hi, hiage, hio, hic⟩ := hF.last_store hI (k := g.stores.length - 1) (by omega)
      have hnp : s.cur.performs = true → i ≠ s.cur.lsqHead := by
        rintro hperf rfl
        rw [lsqAge_head hI.shaped.lsqHeadIn] at hiage
        rw [hperf] at hlen
        simp only [Bool.toNat_true] at hlen
        omega
      have hto := (lsqOccupied_iff_age hi).mp ((hocc i hi).mpr ⟨hio, hic, fun ⟨hh, hperf⟩ => hnp hperf hh⟩)
      have := hA.lsqAge_eq hI.shaped hi hnp
      rw [hage i] at hto
      omega
  case mem =>
    have hperf := hF.settled.applyStores_performed hI
    show applyStores (if s.cur.performs then _ else _) t.mem = (trace s.cfg start (g.idx s.cur.robHead + 1)).mem
    rw [hmem]
    refine hperf.trans ?_
    rw [hmeans.mem (by simp [hkind]), hF.window.mem_head hF.contents hhead]
  case memOld =>
    intro x hx
    rw [hmem] at hx
    exact (hF.settled.memOld_performed hI hx).mono hdone
  case storesOld =>
    intro e he k hk
    refine (hF.settled.storesOld e ?_ k hk).mono hdone
    simp only [Ghost.flushed] at he
    split at he
    · exact List.mem_of_mem_tail he
    · exact he

/-- The flush puts the core back on the run, behind the branch. -/
theorem Simulates.flushes (hrun : t.status = .running) : Simulates start N (g.flushed s.cur) t := by
  have hset := hS.flushed_settled h hm
  obtain ⟨hc, hk, hp⟩ := hm
  have hI := hS.inv.bank
  have hF := hS.follows
  obtain ⟨hne, hready⟩ := (commits_iff _).mp hc
  have hhead := g.right_head hne
  have hmeans := hF.contents.entry _ hhead
  have hkind : (slotGet s.cur.rob s.cur.robHead).kind = .branch := hk
  have hlt := hF.branch_lt hI hne hk
  obtain ⟨hpc, hstop, hw, hrh, hrt, hrs, -⟩ := mispredictionFlush s t hS.inv h hc hk hp
  have hnone := not_right_of_empty (g := g.flushed s.cur) (hrh.trans hrt.symm)
  refine ⟨stepKeepsInv s t hS.inv h, hrun, ?_⟩
  rw [step_cfg h]
  refine ⟨⟨fun u _ hu => absurd hu (hnone u), fun u hu => absurd hu (hnone u), fun j hlo hhi => ?_, le_rfl⟩,
    ⟨fun u hu => absurd hu (hnone u), fun e _ _ hu => absurd hu (hnone _), fun cl u _ hu => absurd hu (hnone _),
      fun i _ _ _ hu => absurd hu (hnone _)⟩, hset, ⟨?_, fun _ _ => ⟨hlt, fun _ => ?_, fun hv => ?_⟩, nofun⟩⟩
  · exact absurd (hlo.trans_lt hhi) (Nat.lt_irrefl _)
  · exact Nat.succ_le_succ hlt.le
  · show t.cur.pc = (trace s.cfg start (g.idx s.cur.robHead + 1)).pc
    rw [hpc, hmeans.target hkind, ← hmeans.value hready (.inr hkind)]
    rfl
  · exact absurd (hw.symm.trans hv) (by decide)

end

/-! ### Memories that read alike -/

theorem sparseGet_of_unlisted {α : Type} {d : α} {l : List (Nat × α)} {a : Nat} (h : ∀ c ∈ l, c.1 ≠ a) :
    sparseGet d l a = d := by
  induction l with
  | nil => rfl
  | cons c t ih =>
    rw [sparseGet, if_neg (h c (List.mem_cons_self ..)).symm]
    exact ih fun x hx => h x (List.mem_cons_of_mem _ hx)

theorem memory_ext {m m' : Memory} (hm : Memory.wf m) (hm' : Memory.wf m')
    (h : ∀ x, readByte m x = readByte m' x) : m = m' := by
  refine sparse_ext hm.sparse hm'.sparse fun a => ?_
  rcases Nat.lt_or_ge a (2 ^ 32) with hlt | hge
  · simpa [readByte, Nat.mod_eq_of_lt (show a < 4294967296 from hlt)] using h (BitVec.ofNat 32 a)
  · have hnone {l : Memory} (hl : Memory.wf l) : sparseGet Memory.unlisted l a = Memory.unlisted :=
      sparseGet_of_unlisted fun e he => by
        have := ((Memory.wf_iff l).mp hl).2 e he
        omega
    rw [hnone hm, hnone hm']

/-- A store performed twice is performed once. -/
theorem storeEffect_storeEffect {m : Memory} (hm : Memory.wf m) (e : LsqEntry) :
    storeEffect e (storeEffect e m) = storeEffect e m := by
  have hwf := storeEffect_wf hm e
  refine memory_ext (storeEffect_wf hwf e) hwf fun x => ?_
  have hbytes : e.type.bytes ≤ 2 ^ 32 := (LsqType.bytes_le _).trans (by decide)
  by_cases hx : ∀ k < e.type.bytes, x ≠ e.addr + BitVec.ofNat 32 k
  · exact readByte_memWrite_outside _ _ _ _ hx
  · simp only [not_forall, not_not] at hx
    obtain ⟨k, hk, rfl⟩ := hx
    exact (readByte_memWrite_inside hwf _ _ hbytes hk).trans (readByte_memWrite_inside hm _ _ hbytes hk).symm

/-! ### Register 0 of the run -/

theorem Arch.write_x_zero (a : Arch) (i : Reg) (v : Word) : slotGet (a.write i v).x 0#5 = slotGet a.x 0#5 := by
  rw [Arch.write_x]
  exact if_neg fun ⟨hi, h0⟩ => hi h0.symm

theorem Arch.branch_x (a : Arch) (op : RsOp) (r1 r2 : Reg) (imm : BitVec 13) : (a.branch op r1 r2 imm).x = a.x := by
  unfold Arch.branch
  split <;> rfl

theorem archEffect_x_zero (mode : AuipcMode) (i : Instr) (a : Arch) :
    slotGet (archEffect mode i a).x 0#5 = slotGet a.x 0#5 := by
  cases i with
  | endProg | sb | sh | sw => rfl
  | lui | jal | jalr | lb | lh | lw | lbu | lhu => exact Arch.write_x_zero ..
  | auipc =>
    cases mode with
    | pcPlusImmNoWrite | pcPlus4NoWrite => rfl
    | rv32i => exact Arch.write_x_zero ..
  | beq | bne | blt | bge | bltu | bgeu => exact congrArg (slotGet · 0#5) (Arch.branch_x ..)
  | addi | slti | sltiu | xori | ori | andi | slli | srli | srai => exact Arch.write_x_zero ..
  | add | sub | sll | slt | sltu | xor | srl | sra | or | and => exact Arch.write_x_zero ..

theorem trace_x_zero {c : Config} {a : Arch} (j : Nat) : slotGet (trace c a j).x 0#5 = slotGet a.x 0#5 := by
  induction j with
  | zero => rfl
  | succ j ih =>
    cases h : seqStep c (trace c a j) with
    | next b =>
      obtain ⟨i, -, -, rfl⟩ := seqStep_eq_next h
      rw [trace_succ_of_next h, archEffect_x_zero, ih]
    | stop code => simp only [trace, h, ih]
    | fatal w => simp only [trace, h, ih]

/-! ### The halt (R321) -/

section
variable {start : Arch} {N : Nat} {g : Ghost} {s t : State} (hT : Terminates s.cfg start N)
  (hS : Simulates start N g s)
  (hc : s.cur.commits = true) (hk : s.cur.robHeadEntry.kind = .endProg)
include hS hc hk

/-- At the halt every store queued is committed, and the list is that of the queue. -/
theorem Simulates.stores_eq : (lsqOrder s.cfg s.cur).map s.cur.lsqAt = g.stores := by
  have hI := hS.inv.bank
  have hset := hS.follows.settled
  have hle := hset.storesLe
  have hin := hI.shaped.lsqHeadIn
  have htail := lsqAge_lt s.cur hI.shaped.lsqTailIn
  obtain ⟨-, -, -, -, hcom⟩ := haltFindsTheMachineDrained s hS.inv hc hk
  refine List.ext_getElem? fun j => ?_
  rw [lsqOrder, List.map_map, List.getElem?_map]
  rcases Nat.lt_or_ge j (s.cur.lsqCountOcc s.cfg) with hlt | hge
  · obtain ⟨i, hi, hage⟩ := exists_lsqAge_eq (b := s.cur) hin (hlt.trans htail)
    have ho : s.cur.lsqOccupied s.cfg i = true := by rwa [lsqOccupied_iff_age hi, hage]
    have hget := hset.stores i hi ho
    have hslot : (s.cur.lsqHead + j) % s.cfg.lsqSize = i := by
      rcases lsqAge_cases hin hi with ⟨hge, h⟩ | ⟨hgt, h⟩
      · rw [show s.cur.lsqHead + j = i by omega, Nat.mod_eq_of_lt hi]
      · rw [show s.cur.lsqHead + j = i + s.cfg.lsqSize by omega, Nat.add_mod_right, Nat.mod_eq_of_lt hi]
    rw [hage, if_pos (hcom i hi ho).1] at hget
    simp [hget, List.getElem?_range hlt, hslot]
  · rw [List.getElem?_eq_none (l := g.stores) (hle.trans hge), List.getElem?_eq_none (by simpa using hge)]
    rfl

include hT

/-- The step that halts finds the run at its end. -/
theorem Simulates.halts (h : step s = .next t) {code : BitVec 8} (hx0 : slotGet start.x 0#5 = 0#32)
    (hstop : seqStep s.cfg (trace s.cfg start N) = .stop code) :
    t.status = .halted code ∧ t.arch.x = (trace s.cfg start N).x ∧ finalMemory t = (trace s.cfg start N).mem := by
  have hI := hS.inv.bank
  have hF := hS.follows
  obtain ⟨hne, -⟩ := (commits_iff _).mp hc
  have hhead := g.right_head hne
  have hidx : g.idx s.cur.robHead = N := by
    obtain ⟨code', hcode⟩ := (hF.contents.entry _ hhead).stop hk
    have := (hF.window.inRange _ hhead).2
    have := hF.path.le
    exact hT.last_of_stop (by omega) hcode
  have hread (r : Reg) : (slotGet s.cur.reg r).value = (trace s.cfg start N).read r := by
    rw [hF.settled.regs, ← hF.window.read_head hF.contents hhead, hidx]
  obtain ⟨-, s1, s2, v, h1, h2, -⟩ := step_cases h
  obtain rfl := Host.Outcome.next.inj (h.symm.trans (endCommitHalts s s1 s2 hS.running hc hk h1 h2))
  refine ⟨?_, slot_ext fun r => ?_, ?_⟩
  · obtain ⟨-, rfl⟩ := seqStep_eq_stop hstop
    show Status.halted ((s.cur.regRead a0).setWidth 8) = _
    rw [Bank.regRead, if_neg (by decide), hread]
  · rw [arch_x]
    refine (hread r).trans ?_
    unfold Arch.read
    split
    · next hr => rw [hr, trace_x_zero, hx0]
    · rfl
  · show (lsqOrder s.cfg s.cur).foldl (fun m i => storeEffect (s.cur.lsqAt i) m) s1.mem = _
    have hmap := hS.stores_eq hc hk
    have hfold : (lsqOrder s.cfg s.cur).foldl (fun m i => storeEffect (s.cur.lsqAt i) m) s1.mem
        = applyStores g.stores s1.mem := by
      rw [← hmap, applyStores, List.foldl_map]
    rw [hfold, ← hidx, hF.window.mem_head hF.contents hhead, ← hF.settled.mem,
      lsqStep_mem (s := beginCycle s) h1]
    split
    · next hp =>
      rcases hF.settled.stores_of_performs hI hp.1 with ⟨-, hl⟩ | ⟨hns, -⟩
      · rw [hl, applyStores_cons, applyStores_cons]
        exact congrArg _ (storeEffect_storeEffect hS.inv.memory _)
      · exact absurd (hns.symm.trans hp.2) (by decide)
    · rfl

end

/-! ### The start (R390, R397) -/

/-- At the start of the run. -/
def Ghost.start : Ghost := ⟨0, 0, fun _ => 0, fun _ => 0#32, none, []⟩

theorem start_inv {c : Config} (hv : c.Valid) (image : List (Word × Byte)) :
    Inv ((State.resetWith c).loadImage image) :=
  resetEstablishesInv ((State.resetWith c).loadImage image) hv
    (loadImage_wf (s := State.resetWith c) Memory.wf_nil image)

theorem start_simulates {c : Config} (hv : c.Valid) (image : List (Word × Byte)) (N : Nat) :
    Simulates ((State.resetWith c).loadImage image).arch N .start ((State.resetWith c).loadImage image) := by
  have hinv := start_inv hv image
  have hmem : ((State.resetWith c).loadImage image).arch.mem = ((State.resetWith c).loadImage image).mem :=
    finalMemory_of_lsqEmpty (s := (State.resetWith c).loadImage image) rfl
  generalize hs : (State.resetWith c).loadImage image = s at hinv hmem ⊢
  have hcur : s.cur = Bank.resetWith c := hs ▸ rfl
  have hstatus : s.status = .running := hs ▸ rfl
  have hnone := not_right_of_empty (g := Ghost.start) (n := s.cur) (by rw [hcur]; rfl)
  have hfree (i : Nat) : ¬s.cur.lsqOccupied s.cfg i = true := by
    simp [hcur, Bank.resetWith, Bank.lsqOccupied, Bank.lsqCountOcc, Bank.lsqAge]
  refine ⟨hinv, hstatus, ⟨fun u _ hu => absurd hu (hnone u), fun u hu => absurd hu (hnone u),
      fun j _ hhi => absurd hhi (Nat.not_lt_zero j), le_rfl⟩,
    ⟨fun u hu => absurd hu (hnone u), fun e _ _ hu => absurd hu (hnone _), fun cl u _ hu => absurd hu (hnone _),
      fun i _ _ _ hu => absurd hu (hnone _)⟩,
    ⟨fun r => ?_, fun i _ ho => absurd ho (hfree i), Nat.zero_le _, hmem.symm, fun x hx => absurd ?_ hx, nofun⟩,
    ⟨Nat.zero_le _, fun _ _ => ⟨Nat.zero_le _, fun _ => rfl, fun hw => ?_⟩, nofun⟩⟩
  · rw [show trace s.cfg s.arch Ghost.start.done = s.arch from rfl, arch_read, Bank.regRead]
    split
    · next hr => rw [hr, hinv.zero.1]
    · rfl
  · rw [hmem]
  · rw [hcur] at hw
    cases hw

end Sys2Proof.Machine
end

section
/-! PROOFS of R405 (O58), part 7: every cycle brings the core nearer to the run's end (`Ghost.left`): it commits, or
fetches, or does some of the work of the instructions in flight (`Bank.work`). -/

namespace Sys2Proof.Machine

/-! ### Progress of a cycle that neither commits nor fetches -/

/-- How many cycles at most a station slot still takes: one to be issued and one to be harvested (R196, R197). -/
def RsEntry.work (e : RsEntry) : Nat := if e.empty then 0 else if e.issued then 1 else 2

/-- The work left in the reservation station. -/
def Bank.stationWork (b : Bank) : Nat := ∑ k ∈ Finset.range b.rs.length, (b.rsAt k).work

/-- The cycles of the memory pipeline left for the queue's entries: at most four for each (R280). -/
def Bank.queueWork (c : Config) (b : Bank) : Nat :=
  4 * b.lsqCountOcc c + if b.lsqInflight then b.lsqCount.toNat else 3

/-- Where an entry may be issued, one of its class may be that has none of its class before it. -/
theorem exists_first_contender {b : Bank} {k : Nat} (hk : k < b.rs.length) (hi : (b.rsAt k).issuable = true) :
    ∃ j < b.rs.length, (b.rsAt j).issuable = true ∧ contendersBelow b (opClass (b.rsAt j).op) j = 0 := by
  induction k using Nat.strong_induction_on with
  | h k ih =>
    by_cases h0 : contendersBelow b (opClass (b.rsAt k).op) k = 0
    · exact ⟨k, hk, hi, h0⟩
    · obtain ⟨e, he⟩ := List.exists_mem_of_length_pos (Nat.pos_of_ne_zero h0)
      obtain ⟨hmem, hwants⟩ := List.mem_filter.mp he
      obtain ⟨l, hl, rfl⟩ := List.mem_take_iff_getElem.mp hmem
      have hlk : l < k := by omega
      have hat : b.rs[l] = b.rsAt l := by simp [Bank.rsAt, hlk.trans hk]
      rw [hat, Bool.and_eq_true] at hwants
      exact ih l hlk (hlk.trans hk) hwants.1

section
variable {c : Config} {b n : Bank} {st : Staging} (hI : BankInv c b) (hst : StagingOk c b st)
  (hA : Advance c b st false n) (hnone : st.entry = none)

/-! ### The station -/

theorem Survives.work {g : Bool} {e n : RsEntry} (h : Survives b g e n) (he : e.empty = false) :
    n.work = if e.issued || g then 1 else 2 := by
  rw [RsEntry.work, h.empty, h.issued, he]
  rfl

include hnone

theorem Staging.not_station (k : Nat) (r : RsEntry) : ¬∃ e, st = .station e k r := by
  rintro ⟨e, h⟩
  rw [h] at hnone
  cases hnone

include hst hA

/-- Where nothing is dispatched, no slot's work grows; it shrinks where an entry is harvested or issued. -/
theorem Advance.work_le {k : Nat} (hk : k < b.rs.length) :
    (n.rsAt k).work ≤ (b.rsAt k).work
      ∧ ((b.rsAt k).empty = false → ((b.rsAt k).harvested b.fu = true
          ∨ (b.rsAt k).issued = false ∧ (b.grant k).isSome = true) → (n.rsAt k).work < (b.rsAt k).work) := by
  rcases hA.rs_cases hst hk with hp | ⟨he, hn⟩ | ⟨he, -, hn⟩ | ⟨he, hh, hs⟩
  · exact absurd hp (Staging.not_station hnone k _)
  · rw [hn]
    exact ⟨le_rfl, fun hlive => absurd (he.symm.trans hlive) (by decide)⟩
  · have h0 : (n.rsAt k).work = 0 := by rw [hn]; rfl
    have hpos : 0 < (b.rsAt k).work := by cases hi : (b.rsAt k).issued <;> simp [RsEntry.work, he, hi]
    exact ⟨by omega, fun _ _ => by omega⟩
  · rw [hs.work he, RsEntry.work, he]
    cases hi : (b.rsAt k).issued with
    | true => simp [hh]
    | false => cases (b.grant k).isSome <;> simp [hh]

theorem Advance.stationWork_le : n.stationWork ≤ b.stationWork := by
  unfold Bank.stationWork
  rw [hA.rsLength]
  exact Finset.sum_le_sum fun k hk => (hA.work_le hst hnone (Finset.mem_range.mp hk)).1

theorem Advance.stationWork_lt {k : Nat} (hk : k < b.rs.length) (he : (b.rsAt k).empty = false)
    (h : (b.rsAt k).harvested b.fu = true ∨ (b.rsAt k).issued = false ∧ (b.grant k).isSome = true) :
    n.stationWork < b.stationWork := by
  unfold Bank.stationWork
  rw [hA.rsLength]
  exact Finset.sum_lt_sum (fun k hk => (hA.work_le hst hnone (Finset.mem_range.mp hk)).1)
    ⟨k, Finset.mem_range.mpr hk, (hA.work_le hst hnone hk).2 he h⟩

include hI

/-- Where an entry may be issued, an entry is: if every unit of its class is busy, one is harvested (R196, R197). -/
theorem Advance.stationWork_lt_of_issuable {k : Nat} (hk : k < b.rs.length) (hi : (b.rsAt k).issuable = true) :
    n.stationWork < b.stationWork := by
  obtain ⟨j, hj, hji, hfirst⟩ := exists_first_contender hk hi
  have hgrant := grant_of_issuable hj hji
  rw [hfirst, ← available_eq_freeUnits_head] at hgrant
  have hlive : (b.rsAt j).empty = false ∧ (b.rsAt j).issued = false := by
    simp only [RsEntry.issuable, Bool.and_eq_true, Bool.not_eq_true'] at hji
    exact ⟨hji.1.1, hji.2⟩
  cases hu : b.fu.available (opClass (b.rsAt j).op) with
  | some u => exact hA.stationWork_lt hst hnone hj hlive.1 (.inr ⟨hlive.2, by rw [hgrant, hu]; rfl⟩)
  | none =>
    have hbusy : (b.fu.unit (opClass (b.rsAt j).op) .u0).busy = true := by
      by_contra hfree
      simp [FuArray.available, Bool.eq_false_iff.mpr hfree] at hu
    obtain ⟨e, he, hempty, hissued, -⟩ := hI.units.unitHasEntry _ _ hbusy
    obtain ⟨l, hl, rfl⟩ := mem_rs.mp he
    exact hA.stationWork_lt hst hnone hl hempty (.inl (harvested_of_issued hI hl hempty hissued))

/-- The station's entry for the head of the buffer waits for nothing, so it is harvested or may be issued. -/
theorem Advance.stationWork_lt_of_head {e : RsEntry} (he : e ∈ b.rs) (hlive : e.empty = false)
    (hrob : e.rob = b.robHead) : n.stationWork < b.stationWork := by
  have hage : b.robAge e.rob = 0 := by rw [hrob, robAge_eq_zero.mpr rfl]
  have h1 : e.q1c = false := by
    by_contra hw
    obtain ⟨-, -, hlt⟩ := hI.station.wait1 e he hlive (by simpa using hw)
    omega
  have h2 : e.q2c = false := by
    by_contra hw
    obtain ⟨-, -, hlt⟩ := hI.station.wait2 e he hlive (by simpa using hw)
    omega
  have hbusy := hI.station.busyIff e he
  obtain ⟨k, hk, rfl⟩ := mem_rs.mp he
  cases hi : (b.rsAt k).issued with
  | true => exact hA.stationWork_lt hst hnone hk hlive (.inl (harvested_of_issued hI hk hlive hi))
  | false => exact hA.stationWork_lt_of_issuable hI hst hnone hk (by simp [RsEntry.issuable, hlive, hbusy, h1, h2, hi])

/-! ### The queue -/

/-- Where nothing is dispatched, the pipeline's work does not grow; it shrinks where the queue's head is ready. -/
theorem Advance.queueWork_le (hp : PipelineStep b n) : n.queueWork c ≤ b.queueWork c
    ∧ (b.lsqEmpty = false → (b.lsqAt b.lsqHead).ready = true → n.queueWork c < b.queueWork c) := by
  have htail : n.lsqCountOcc c + b.performs.toNat = b.lsqCountOcc c := by
    rcases hA.lsqAge_tail hst hI.shaped (performs_ne hI) with ⟨⟨e, q, h⟩, -⟩ | ⟨-, h⟩
    · rw [h] at hnone
      cases hnone
    · exact h
  have hperf := performs_iff b
  unfold Bank.queueWork
  cases hp with
  | counts hi hc hi' hc' =>
    have : b.performs = false := by simp [Bank.performs, hc]
    simp only [this, Bool.toNat_false, hi, hi', hc', if_true] at htail ⊢
    have : (b.lsqCount - 1#2).toNat < b.lsqCount.toNat := by bv_omega
    omega
  | performs hp hi' =>
    simp only [hp, Bool.toNat_true, (hperf.mp hp).1, hi', if_true, Bool.false_eq_true, if_false] at htail ⊢
    omega
  | starts hi hi' hc' =>
    have : b.performs = false := by simp [Bank.performs, hi]
    simp only [this, Bool.toNat_false, hi, hi', hc', if_true, Bool.false_eq_true, if_false] at htail ⊢
    have : memCountdown.toNat = 2 := rfl
    omega
  | waits hi hw hi' =>
    have : b.performs = false := by simp [Bank.performs, hi]
    simp only [this, Bool.toNat_false, hi, hi', Bool.false_eq_true, if_false] at htail ⊢
    refine ⟨by omega, fun he hr => ?_⟩
    rw [he, hr] at hw
    rcases hw with hw | hw <;> cases hw

end

section
variable {c : Config} {b : Bank} (hI : BankInv c b)
include hI

/-- A committed store heads the queue wherever one stands in it. -/
theorem lsqHead_ready_of_committedStore {i : Nat} (hi : i < c.lsqSize) (ho : b.lsqOccupied c i = true)
    (hc : (b.lsqAt i).committedStore = true) : (b.lsqAt b.lsqHead).ready = true := by
  have hin := hI.shaped.lsqHeadIn
  rcases Nat.eq_zero_or_pos (b.lsqAge c i) with h0 | hpos
  · rw [← (lsqAge_inj hin hi hin).mp (h0.trans (lsqAge_head hin).symm)]
    exact (committedStore_iff.mp hc).2
  · have hocc := (lsqOccupied_iff_age hi).mp ho
    have hho : b.lsqOccupied c b.lsqHead = true := by
      rw [lsqOccupied_iff_age hin, lsqAge_head hin]
      omega
    exact (committedStore_iff.mp (hI.queue.committedPrefix _ hin i hi hho ho (by rw [lsqAge_head hin]; exact hpos)
      hc)).2

/-- An occupied slot shows that the queue is not empty. -/
theorem lsqEmpty_of_occupied {i : Nat} (ho : b.lsqOccupied c i = true) : b.lsqEmpty = false := by
  by_contra he
  have he : b.lsqHead = b.lsqTail := by simpa [Bank.lsqEmpty] using he
  have h0 : b.lsqCountOcc c = 0 := by rw [Bank.lsqCountOcc, ← he, lsqAge_head hI.shaped.lsqHeadIn]
  simp [Bank.lsqOccupied, h0] at ho

/-- The queue's entry for the head of the buffer waits for nothing: a store reports, a load or what stands before it is
ready for the pipeline (R277, R280). -/
theorem queue_of_robHead {i : Nat} (hi : i < c.lsqSize) (ho : b.lsqOccupied c i = true)
    (hu : (b.lsqAt i).committedStore = false) (hrob : (b.lsqAt i).rob = b.robHead) :
    b.storeFinishes c b.robHead ∨ (b.lsqAt b.lsqHead).ready = true := by
  have hslot := hI.queue.slots i hi ho
  have hage : b.robAge (b.lsqAt i).rob = 0 := by rw [hrob, robAge_eq_zero.mpr rfl]
  have hbase : (b.lsqAt i).basec = false := by
    by_contra hw
    obtain ⟨-, -, hlt⟩ := hslot.waitBase (by simpa using hw)
    omega
  have hval : (b.lsqAt i).valuec = false := by
    by_contra hw
    obtain ⟨-, -, hlt⟩ := hslot.waitValue (by simpa using hw)
    omega
  rcases not_committedStore_iff.mp hu with hload | ⟨hstore, hready⟩
  · right
    obtain ⟨-, -, -, hr, -⟩ := hslot.load hload
    have hin := hI.shaped.lsqHeadIn
    have hhead := lsqAge_head hin
    rcases Nat.eq_zero_or_pos (b.lsqAge c i) with h0 | hpos
    · rw [← (lsqAge_inj hin hi hin).mp (h0.trans hhead.symm), hr, hbase]
      rfl
    · have hho := lsqHead_occupied hI.shaped (lsqEmpty_of_occupied hI ho)
      refine lsqHead_ready_of_committedStore hI hin hho ?_
      by_contra hhu
      have := hI.queue.programOrder _ hin i hi hho ho (by omega) (by simpa using hhu) hu
      omega
  · exact .inl ⟨i, hi, by simp [ho, LsqEntry.reports, hstore, hbase, hval, hready], hrob⟩

end

/-! ### A cycle that commits nothing and fetches nothing does some of the work left -/

/-- The head of the buffer is still to become ready. -/
def Bank.headWork (b : Bank) : Nat := (!b.robEmpty && !b.robHeadEntry.ready).toNat

/-- The work of the instructions in flight that a cycle can do without committing or dispatching one. -/
def Bank.work (c : Config) (b : Bank) : Nat := b.headWork + b.stationWork + b.queueWork c

section
variable {c : Config} {b : Bank} (hI : BankInv c b) (he : b.robEmpty = true)
include hI he

omit hI in
theorem not_robOccupied_of_robEmpty (t : Slot) : ¬b.robOccupied t = true := fun h =>
  absurd ((robEmpty_of_occupied h).symm.trans he) (by decide)

/-- With an empty buffer the fetch unit dispatches (R150, R152). -/
theorem mayFetch_of_robEmpty : b.MayFetch := by
  refine ⟨?_, ?_, ?_⟩
  · have : b.robHead = b.robTail := by simpa [Bank.robEmpty] using he
    simp [Bank.robFull, this]
  · by_contra hs
    obtain ⟨hne, -⟩ := hI.fetch.stoppedHasEnd (by simpa using hs)
    exact absurd (hne.symm.trans he) (by decide)
  · by_contra hw
    exact not_robOccupied_of_robEmpty he _ (hI.fetch.jalrWaits (by simpa using hw)).1

/-- With an empty buffer the station has a free slot. -/
theorem freeRsSlot_of_robEmpty : freeRsSlot b.rs ≠ none := by
  intro hnone
  have hpos : 0 < b.rs.length := hI.shaped.rsLength ▸ hI.valid.1
  have hlive := List.findIdx?_eq_none_iff.mp hnone _ (rsAt_mem hpos)
  exact not_robOccupied_of_robEmpty he _ (hI.station.slotPending _ (rsAt_mem hpos) hlive).1

/-- With an empty buffer the queue holds only committed stores, ready for the pipeline. -/
theorem lsqHead_ready_of_robEmpty (hq : b.lsqEmpty = false) : (b.lsqAt b.lsqHead).ready = true := by
  have hin := hI.shaped.lsqHeadIn
  have ho := lsqHead_occupied hI.shaped hq
  refine lsqHead_ready_of_committedStore hI hin ho ?_
  by_contra hu
  exact not_robOccupied_of_robEmpty he _ (uncommitted_occupied hI hin ho (by simpa using hu))

omit he in
/-- A full queue is not empty: it has two slots or more (R271). -/
theorem lsqEmpty_of_lsqFull (hf : b.lsqFull c = true) : b.lsqEmpty = false := by
  have hnext : lsqNext c b.lsqTail = b.lsqHead := by simpa [Bank.lsqFull] using hf
  have hsize := hI.valid.2.1
  have := lsqNext_cases hI.shaped.lsqTailIn
  have hne : b.lsqHead ≠ b.lsqTail := by omega
  simpa [Bank.lsqEmpty] using hne

end

section
variable {c : Config} {b n : Bank} {st : Staging} (hI : BankInv c b) (hst : StagingOk c b st)
  (hA : Advance c b st false n) (hnone : st.entry = none) (hidle : b.commits = false)
include hst hA hnone hidle

omit hst in
/-- Where nothing commits and nothing is dispatched, the buffer stays as empty as it was. -/
theorem Advance.headWork_le : n.robEmpty = b.robEmpty ∧ n.robHead = b.robHead ∧ n.headWork ≤ b.headWork := by
  have hh : n.robHead = b.robHead := hA.robHead
  have ht : n.robTail = b.robTail := by rw [hA.robTail, Staging.robTail, hnone]; rfl
  have he : n.robEmpty = b.robEmpty := by rw [Bank.robEmpty, Bank.robEmpty, hh, ht]
  refine ⟨he, hh, ?_⟩
  unfold Bank.headWork
  rw [he]
  cases hb : b.robEmpty with
  | true => simp
  | false =>
    have hr : b.robHeadEntry.ready = false := by simpa [Bank.commits, hb] using hidle
    rw [hr]
    exact Bool.toNat_le _

include hI

/-- Where something is in flight, some of its work is done. -/
theorem Advance.work_lt_of_pending (hp : PipelineStep b n) (he : b.robEmpty = false) : n.work c < b.work c := by
  obtain ⟨hne, hh, hhead⟩ := hA.headWork_le hnone hidle
  have hstation := hA.stationWork_le hst hnone
  obtain ⟨hqle, hqlt⟩ := hA.queueWork_le hI hst hnone hp
  have hr : b.robHeadEntry.ready = false := by simpa [Bank.commits, he] using hidle
  have hocc := robHead_occupied he
  unfold Bank.work
  rcases hI.owners.pendingOwned _ hocc hr with ⟨e, hmem, hlive, hrob⟩ | ⟨i, hi, ho, hu, hrob⟩
  · have := hA.stationWork_lt_of_head hI hst hnone hmem hlive hrob
    omega
  · rcases queue_of_robHead hI hi ho hu hrob with hf | hready
    · have h1 : b.headWork = 1 := by simp [Bank.headWork, he, hr]
      have hnr : n.robHeadEntry.ready = true := by
        rw [Bank.robHeadEntry, hh]
        exact (hA.ready_iff hocc).mpr (.inr (.inr (.inl hf)))
      have h0 : n.headWork = 0 := by simp [Bank.headWork, hnr]
      omega
    · have := hqlt (lsqEmpty_of_occupied hI ho) hready
      omega

/-- Where only the queue is full, a store is performed or under way. -/
theorem Advance.work_lt_of_robEmpty (hp : PipelineStep b n) (he : b.robEmpty = true)
    (why : b.MayFetch → freeRsSlot b.rs = none ∨ b.lsqFull c = true) : n.work c < b.work c := by
  obtain ⟨-, -, hhead⟩ := hA.headWork_le hnone hidle
  have hstation := hA.stationWork_le hst hnone
  obtain ⟨-, hqlt⟩ := hA.queueWork_le hI hst hnone hp
  have hfull := (why (mayFetch_of_robEmpty hI he)).resolve_left (freeRsSlot_of_robEmpty hI he)
  have hq := lsqEmpty_of_lsqFull hI hfull
  have := hqlt hq (lsqHead_ready_of_robEmpty hI he hq)
  unfold Bank.work
  omega

end

/-- An entry staged is one more in the buffer, which was not full. -/
theorem Advance.robCount_push {c : Config} {b n : Bank} {st : Staging} (hst : StagingOk c b st)
    (hA : Advance c b st false n) {e : RobEntry} (he : st.entry = some e) :
    n.robCount = b.robCount + 1 ∧ n.robCount < 32 := by
  have hfull : b.robTail + 1#5 ≠ b.robHead := by simpa [Bank.robFull] using (hst.room e he).notFull
  have hh : n.robHead = b.robHead := hA.robHead
  have ht : n.robTail = b.robTail + 1#5 := by rw [hA.robTail, Staging.robTail, he]; rfl
  unfold Bank.robCount
  rw [hh, ht]
  constructor <;> bv_omega

/-! ### The run's end is reached -/

/-- What is left of the run at a state of the core: instructions to take effect, to be fetched, room in the buffer, and
the work of the instructions in flight. -/
def Ghost.left (N : Nat) (g : Ghost) (s : State) : ℕ ×ₗ ℕ ×ₗ ℕ ×ₗ ℕ :=
  toLex (N + 1 - g.done, toLex (N + 1 - g.next, toLex (32 - s.cur.robCount, s.cur.work s.cfg)))

theorem Ghost.left_lt_of_done {N : Nat} {g g' : Ghost} {s t : State} (h : g.done < g'.done) (hle : g'.done ≤ N + 1) :
    g'.left N t < g.left N s :=
  Prod.Lex.toLex_lt_toLex.mpr (.inl (by dsimp only; omega))

section
variable {start : Arch} {N : Nat} {g g' : Ghost} {s t : State} (hS : Simulates start N g s)
include hS

theorem KeepsOn.left_lt (hK : KeepsOn start N g g' s t) : g'.left N t < g.left N s := by
  have hI := hS.inv.bank
  have hF := hS.follows
  have hle' := hK.simulates.follows.path.le
  have hdn' := hK.simulates.follows.window.le
  obtain ⟨st, hst, hA, hstay⟩ := hK.advance
  cases hc : s.cur.commits with
  | true =>
    obtain ⟨hne, -⟩ := (commits_iff _).mp hc
    have hlo := (hF.window.inRange _ (g.right_head hne)).1
    have hd : g'.done = g.idx s.cur.robHead + 1 := hK.done.trans (if_pos hc)
    exact Ghost.left_lt_of_done (by omega) (by omega)
  | false =>
    have hd : g'.done = g.done := hK.done.trans (if_neg (by simp [hc]))
    have hnext := hK.next
    rw [hc] at hA
    refine Prod.Lex.toLex_lt_toLex.mpr (.inr ⟨by dsimp only; omega, Prod.Lex.toLex_lt_toLex.mpr ?_⟩)
    rcases Nat.lt_or_eq_of_le hnext with hlt | heq
    · exact .inl (by dsimp only; omega)
    refine .inr ⟨by dsimp only; omega, Prod.Lex.toLex_lt_toLex.mpr ?_⟩
    cases he : st.entry with
    | some e =>
      obtain ⟨hcount, hmax⟩ := hA.robCount_push hst he
      exact .inl (by dsimp only; omega)
    | none =>
      have hcount : t.cur.robCount = s.cur.robCount := by
        rw [Bank.robCount, Bank.robCount, show t.cur.robHead = s.cur.robHead from hA.robHead, hA.robTail,
          Staging.robTail, he]
        rfl
      refine .inr ⟨by dsimp only; omega, ?_⟩
      dsimp only
      rw [hK.cfg]
      cases hemp : s.cur.robEmpty with
      | false => exact hA.work_lt_of_pending hI hst he hc hK.pipeline hemp
      | true =>
        have hbad : g.bad = none := by
          by_contra hbad
          obtain ⟨w, hw⟩ := Option.ne_none_iff_exists'.mp hbad
          exact not_robOccupied_of_robEmpty hemp _ (hF.path.mispredicted w hw).1
        exact hA.work_lt_of_robEmpty hI hst he hc hK.pipeline hemp (hstay heq.symm hbad).2

end

theorem commitStep_halts_commits {s t : State} (h : commitStep s = .next t) (hs : s.status = .running)
    (ht : t.status ≠ .running) : s.cur.commits = true := by
  cases commitStep_outcome h with
  | idle => exact absurd hs ht
  | register hc | store hc | branch hc | flush hc | halt hc => exact hc

/-- A step ends the run only with the commit of END (R321). -/
theorem step_running {s t : State} (h : step s = .next t)
    (hend : ¬(s.cur.commits = true ∧ s.cur.robHeadEntry.kind = .endProg)) : t.status = .running := by
  obtain ⟨hs, u, v, hu, hv, rfl⟩ := step_commits h
  rw [endCycle_status]
  by_contra hrun
  have hus := hu.status.trans hs
  exact hend ⟨hu.cur ▸ commitStep_halts_commits hv hus hrun, hu.cur ▸ commitStep_halts hv hus hrun⟩

/-- Every step of a core that follows the run halts at its end or brings it nearer. -/
theorem Simulates.step {start : Arch} {N : Nat} {g : Ghost} {s t : State} (hT : Terminates s.cfg start N)
    (hS : Simulates start N g s) (h : step s = .next t)
    (hend : ¬(s.cur.commits = true ∧ s.cur.robHeadEntry.kind = .endProg)) :
    ∃ g', Simulates start N g' t ∧ g'.left N t < g.left N s := by
  have hrun := step_running h hend
  by_cases hm : s.cur.mispredicts
  · have hS' := hS.flushes h hm hrun
    obtain ⟨hne, -⟩ := (commits_iff _).mp hm.1
    have hlo := (hS.follows.window.inRange _ (g.right_head hne)).1
    exact ⟨_, hS', Ghost.left_lt_of_done (Nat.lt_succ_of_le hlo) (hS'.follows.window.le.trans hS'.follows.path.le)⟩
  · obtain ⟨g', hK⟩ := hS.keepsOn hT h hrun hm
    exact ⟨g', hK.simulates, hK.left_lt hS⟩

theorem core_run_succ {s t : State} (h : step s = .next t) (m : Nat) :
    Sys2Proof.core.run (m + 1) s = Sys2Proof.core.run m t := by
  simp [Host.Core.run, Sys2Proof.core, h]

/-- Without a fault, a step of a core that keeps the invariant leads on (R371). -/
theorem step_next_of_no_fatal {s : State} (hI : Inv s) (hs : s.status = .running)
    (hno : ∀ m reason, Sys2Proof.core.run m s ≠ .fault (.fatal reason)) : ∃ t, step s = .next t := by
  have hfault {reason : FatalReason} (h : step s = .fault (.fatal reason)) : False :=
    hno 1 reason (by simp [Host.Core.run, Sys2Proof.core, h])
  rcases stepOutcomes s hI hs with h | ⟨w, e, -, h⟩ | ⟨a, -, -, h⟩
  · exact h
  · exact (hfault h).elim
  · exact (hfault h).elim

/-- A core that follows the run halts as the run ends, unless it faults. -/
theorem Simulates.reaches_end {c : Config} {start : Arch} {N : Nat} (hT : Terminates c start N)
    (hx0 : slotGet start.x 0#5 = 0#32) {code : BitVec 8} (hstop : seqStep c (trace c start N) = .stop code)
    {g : Ghost} {s : State} (hS : Simulates start N g s) (hcfg : s.cfg = c)
    (hno : ∀ m reason, Sys2Proof.core.run m s ≠ .fault (.fatal reason)) :
    ∃ m t, Sys2Proof.core.run m s = .next t ∧ t.status = .halted code ∧ t.arch.x = (trace c start N).x
      ∧ finalMemory t = (trace c start N).mem := by
  generalize hl : g.left N s = l
  induction l using WellFoundedLT.induction generalizing g s with
  | ind l ih =>
    subst hl hcfg
    obtain ⟨t, hstep⟩ := step_next_of_no_fatal hS.inv hS.running hno
    by_cases hend : s.cur.commits = true ∧ s.cur.robHeadEntry.kind = .endProg
    · exact ⟨1, t, core_run_succ hstep 0, hS.halts hT hend.1 hend.2 hstep hx0 hstop⟩
    · obtain ⟨g', hS', hlt⟩ := hS.step hT hstep hend
      have hnot (m : Nat) (reason : FatalReason) : Sys2Proof.core.run m t ≠ .fault (.fatal reason) := fun h =>
        hno (m + 1) reason ((core_run_succ hstep m).trans h)
      obtain ⟨m, u, hrun, hu⟩ := ih _ hlt hS' (step_cfg hstep) hnot rfl
      exact ⟨m + 1, u, (core_run_succ hstep m).trans hrun, hu⟩

/-- Settles O58: the core keeps following the interpreter's run (`Simulates.step`), each cycle bringing it nearer to the
run's end (`Ghost.left`), where it halts in the run's last state (`Simulates.halts`). -/
theorem sequentialEquivalence : Obligations.SequentialEquivalence := by
  intro c image n a code hv start hrun hstop hfresh hno
  have hT := terminates_of_run hrun hstop hfresh
  obtain ⟨rfl, -⟩ := seqRun_trace hrun
  have hx0 : slotGet start.arch.x 0#5 = 0#32 := (arch_x start 0#5).trans (start_inv hv image).zero.1
  exact (start_simulates hv image n).reaches_end hT hx0 hstop rfl hno

end Sys2Proof.Machine
end
